-- ==== Sys2Proof/Word.lean ====
section
/-! DEFINITION. The word types of the FC-480 and their plainest arithmetic (00_scope.md section 6). -/

namespace Sys2Proof

/-- One byte. -/
abbrev Byte := BitVec 8

/-- A 16-bit field: a counter of the status page, a mark number, an audio sample, sixteen levels or marks. -/
abbrev Half := BitVec 16

/-- One 32-bit word of the memory bus. -/
abbrev Word := BitVec 32

/-- A 26-bit byte address of the memory bus. -/
abbrev Addr := BitVec 26

/-- The address lines A25 to A2 of the bus: a word address. A transaction's byte address is a multiple of 4 (R168). -/
abbrev WordAddr := BitVec 24

/-- The byte address of a word address. -/
def WordAddr.toAddr (a : WordAddr) : Addr := a ++ (0 : BitVec 2)

end Sys2Proof
end

