-- ==== Sys2Proof/Syntax.lean ====
section
/-! DEFINITION. The commands of the FC-480: one constructor per row of spec/opcode_table.json, with its operands.

The part is reached by memory writes and reads, so a row that is a write carries what the bus carries: the written value
where the row does not fix it, and `burst`, which says whether the word is one of an aligned burst of four (R168; its place
in the burst follows from its address). The limit commands carry the level of PROG_EN, which is sampled as the write is
taken (R158). The rows that are events carry the pin levels, input number, channel or valve they are about. -/

namespace Sys2Proof

/-- One word the processor writes: where, what, under which byte enables, and whether it is a word of a burst (R168). -/
structure BusWrite where
  address : WordAddr
  data : Word
  enables : BitVec 4
  burst : Bool
  deriving DecidableEq, Repr

/-- The form of a read: of one word or of an aligned burst of four, under four byte enables for each word (R168). Bits 4k to
4k + 3 of `enables` are those of word k, and a read of one word has word 0 alone. -/
structure ReadForm where
  enables : BitVec 16
  burst : Bool
  deriving DecidableEq, Repr

/-- A read the processor makes: of one word, or of the aligned burst of four words that begins at the address (R168). -/
structure BusRead extends ReadForm where
  address : WordAddr
  deriving DecidableEq, Repr

/-- What comes to the arbiter with a grant: a read that arrives at the part, if any, and which of two requesters that arrived
together at a free port is taken first (R173). -/
structure GrantInput where
  arriving : Option BusRead
  fetchFirst : Bool
  deriving DecidableEq, Repr

/-- The commands and events the part takes. -/
inductive Instr where
  -- show commands: full writes to SHOW_CMD (R187)
  | start (burst : Bool)
  | stop (burst : Bool)
  | hold (burst : Bool)
  | step (burst : Bool)
  | proceed (burst : Bool)
  | ringReset (burst : Bool)
  | ambient (burst : Bool)
  | cueResync (burst : Bool)
  | releaseInterlocks (burst : Bool)
  | mute (burst : Bool)
  | monitor (burst : Bool)
  | spaceTriggers (burst : Bool)
  | clearCounts (burst : Bool)
  | showCmdUnknownCode (code : Word) (burst : Bool)
  | showCmdPartialWrite (data : Word) (enables : BitVec 4) (burst : Bool)
  -- the other captured words (R171)
  | showArgWrite (index : Fin 3) (value : Word) (burst : Bool)
  | cueMarkWrite (value : Word) (burst : Bool)
  | audioMarkWrite (value : Word) (burst : Bool)
  | attnEnableWrite (value : Word) (burst : Bool)
  | attnClearWrite (value : Word) (burst : Bool)
  | causeWordRead (form : ReadForm)
  | stagingWordWrite (index : Fin 16) (value : Word) (burst : Bool)
  -- limit commands: full writes to LIMIT_CMD, with the word's ignored bits and the level of PROG_EN (R158, R187)
  | programRow (row : Fin 32) (upper : Half) (progEn burst : Bool)
  | eraseAll (rowField : Byte) (upper : Half) (progEn burst : Bool)
  | setLock (rowField : Byte) (upper : Half) (progEn burst : Bool)
  | clearStaging (rowField : Byte) (upper : Half) (progEn burst : Bool)
  | limitCmdUnknownCode (word : Word) (progEn burst : Bool)
  -- completions of limit operations; `arrayHolds` says whether the array reads back what was stored (R161)
  | programRowCompletion (arrayHolds : Bool)
  | eraseAllCompletion
  | setLockCompletion
  -- the memory path
  | processorWrite (write : BusWrite) (progEn : Bool)
  | arbiterGrant (input : GrantInput)
  | processorTransactionEnd
  | fetchBurstCompletion
  -- events of the show
  | primingComplete
  | waitingRecordExpansion
  | syncInRising
  | framePeriod
  | starvedResume
  | starveLimit
  | winddownCompletion
  | windowEnd (channel : Fin 4)
  -- periods of the water and light units
  | fieldPeriod
  | deferredCloseApply (valve : Fin 192)
  | colourPeriod
  -- sensors and wind
  | senseLevelChange (input : Fin 16) (high : Bool)
  | debounceTimerExpiry (input : Fin 16)
  | windInRising
  | windGateExpiry
  -- reset; at release the straps and the sense levels are sampled (R117, R167)
  | resetAssert
  | resetRelease (straps : BitVec 6) (senses : Half)
  deriving DecidableEq, Repr

end Sys2Proof
end

