-- ==== Sys2Proof/Decode.lean ====
section
/-! DEFINITION. Decoding by the table's bits. No row of spec/opcode_table.json gives bits: the rows are commands and events
of a block, not encoded instructions. What the part itself decodes, the words written to SHOW_CMD and LIMIT_CMD, is in
Machine/Operands.lean. -/

namespace Sys2Proof

/-- The command a word spells by the table's bits: none, since no row gives bits. -/
def decodeTableWord (_nbits _w : Nat) : Option Instr := none

end Sys2Proof
end

