-- ==== Sys2Proof/Config.lean ====
section
/-! DEFINITION. The constants of the FC-480: sizes, levels and limits the manual states, the two values it leaves open that
this model names (what memory and the nonvolatile table hold before anything has written them), and the one free value. -/

namespace Sys2Proof.Config

/-- Slots of the cue ring (section 2.1). -/
abbrev cueSlots : Nat := 4096
/-- Slots of the audio ring (section 2.1). -/
abbrev audioSlots : Nat := 114688
/-- Frames the frame FIFO holds at most (R74). -/
abbrev fifoCapacity : Nat := 1024
/-- Entries the release table holds at most (R57). -/
abbrev releaseCapacity : Nat := 512
/-- Records the cue buffer holds at most (R40). -/
abbrev cueBufferCapacity : Nat := 4
/-- FIFO level at which priming completes (R4). -/
abbrev primingLevel : Nat := 512
/-- FIFO level at which a starved show resumes (R10). -/
abbrev resumeLevel : Nat := 64
/-- FIFO level below which an audio read comes before a cue burst (R35). -/
abbrev lowLevel : Nat := 256
/-- The last show position, at which no further advance is made (R8). -/
abbrev positionMax : Word := 0xFFFFFFFF
/-- The greatest sample magnitude and follow scale (R85, R144). -/
abbrev magnitudeMax : Nat := 32767
/-- The greatest speed, in permille (R102). -/
abbrev fullSpeed : Nat := 1000
/-- Debounce time in ms while the table is not VALID (R118). -/
abbrev fallbackDebounce : Byte := 255
/-- Wind gate length in seconds while the table is not VALID (R118). -/
abbrev fallbackGate : Byte := 10
/-- Duration in ms of PROGRAM_ROW and SET_LOCK (R160). -/
abbrev shortOperationMs : Nat := 4
/-- Duration in ms of ERASE_ALL (R160). -/
abbrev eraseOperationMs : Nat := 40

/-- An erased byte of the limit table (R153). -/
abbrev erasedByte : Byte := 0xFF

/-- What a byte of the external memory that nothing has written reads as. DESIGN CHOICE (log entry 3), unsafe: the
manual gives memory no power-on contents. -/
abbrev powerOnByte : Byte := 0

/-- Field sync word of a field frame (section 11.5). -/
abbrev fieldSync : Half := 0xF52A
/-- Sync word of a colour frame (section 11.5). -/
abbrev colourSync : Half := 0xC3A6

/-- The manual's open order of a run of examined records and an advance waiting to be taken, for each meeting of the two,
by its number: true when the advance is taken first and divides the run there, false when the run goes on first. A free
value: it has no body, and nothing can be proved of it (R51, R62; log entry 20). -/
opaque advanceDivides : Nat → Bool

/-! Window offsets of the regions and of the defined command-page words (00_scope.md section 2, R171). -/

/-- First offset of the status page. -/
abbrev statusBase : Nat := 0x01000
/-- First offset of the limit view. -/
abbrev limitViewBase : Nat := 0x02000
/-- First offset of the staging words. -/
abbrev stagingBase : Nat := 0x04000
/-- First offset above the staging words. -/
abbrev ordinaryBase : Nat := 0x04040
/-- First offset of the cue ring. -/
abbrev cueRingBase : Nat := 0x10000
/-- First offset of the audio ring. -/
abbrev audioRingBase : Nat := 0x20000
/-- Offset of SHOW_CMD. -/
abbrev showCmd : Nat := 0x000
/-- Offset of SHOW_ARG0; SHOW_ARG1 and SHOW_ARG2 follow. -/
abbrev showArg : Nat := 0x004
/-- Offset of CUE_MARK. -/
abbrev cueMark : Nat := 0x040
/-- Offset of AUDIO_MARK. -/
abbrev audioMark : Nat := 0x044
/-- Offset of LIMIT_CMD. -/
abbrev limitCmd : Nat := 0x080
/-- Offset of ATTN_ENABLE. -/
abbrev attnEnable : Nat := 0x0C0
/-- Offset of ATTN_CLEAR. -/
abbrev attnClear : Nat := 0x0C4
/-- Offset, in the status page, of the cause word (section 11.3). -/
abbrev causeWord : Nat := 0x144

end Sys2Proof.Config
end

