-- ==== Sys2Proof/Machine/State.lean ====
section
/-! DEFINITION. The state of the FC-480: one structure per block, as the manual divides it (00_scope.md section 3), the
external memory behind the M-side, and the queue of commands waiting to be taken. `State.reset` is the part with RESET_N
asserted, every item at the value the chapters' state tables give. -/

namespace Sys2Proof.Machine

/-! ## Show Sequencer (R1, R50, R57, R70) -/

/-- The show states (section 1.1), in the order of their status page codes. -/
inductive ShowState where
  | idle | priming | armed | running | starved | held | winddown | tripped
  deriving DecidableEq, Repr

/-- The kinds of wind-down (section 1.1). -/
inductive WinddownKind where
  | normal | fault
  deriving DecidableEq, Repr

/-- The hold-pending mode (R13): none, or at the next MARK released. -/
inductive HoldPending where
  | clear | atMark
  deriving DecidableEq, Repr

/-- The sync mode of the show (section 1.2). -/
inductive SyncMode where
  | immediate | wait
  deriving DecidableEq, Repr

/-- The show rates, by rate code (00_scope.md section 6). -/
inductive Rate where
  | r32000 | r44100 | r48000
  deriving DecidableEq, Repr

/-- The three faults (section 1.6). -/
inductive FaultCause where
  | interlockTrip (entry : Fin 8) | starveLimit | positionLimit
  deriving DecidableEq, Repr

/-- The fault record (R21). -/
structure FaultRecord where
  first : Option FaultCause
  position : Word
  secondary : Byte
  deriving DecidableEq, Repr

/-- The empty fault record (R21). -/
def FaultRecord.empty : FaultRecord := { first := none, position := 0, secondary := 0 }

/-- The mark last released, with the position at which it was (R67). -/
structure LastMark where
  number : Half
  position : Word
  deriving DecidableEq, Repr

/-- A colour of four components, always in this order (00_scope.md section 6). -/
structure Colour where
  red : Byte
  green : Byte
  blue : Byte
  white : Byte
  deriving DecidableEq, Repr

/-- The action of a release entry: its kind, channel, value, fade and notify field (R57). -/
inductive Action where
  | valve (valve : Fin 192) (isOpen : Bool)
  | pump (pump : Fin 16) (speed : Nat)
  | light (group : Fin 64) (colour : Colour) (fade : BitVec 10)
  | follow (group : Fin 64) (channel : Option (Fin 4))
  | mark (number : Half) (notify : Bool)
  | endShow
  deriving DecidableEq, Repr

/-- A release entry (R57). -/
structure ReleaseEntry where
  due : Word
  action : Action
  source : Byte
  late : Bool
  deriving DecidableEq, Repr

/-- The Show Sequencer. -/
structure Sequencer where
  state : ShowState
  kind : WinddownKind
  position : Word
  holdHost : Bool
  holdInterlock : Bool
  holdPending : HoldPending
  sync : SyncMode
  rate : Rate
  valveLeads : Vector Nat 192
  pumpLeads : Vector Nat 16
  lightLags : Vector Nat 64
  starveLimit : Nat
  starveCount : Nat
  faultRecord : FaultRecord
  lastMark : Option LastMark
  table : List ReleaseEntry
  lateCount : Half
  discardedCount : Half
  headAccepted : Bool
  /-- An advance divides a run of examined records: its next record, now the head, is examined once the releases of that
  advance are done (R51). -/
  runDivided : Bool
  foundSequence : Byte
  cueErrorCount : Half
  /-- Source sequence of the entry last released; none until the first release after reset (R70). -/
  lastReleased : Option Byte
  /-- A colour period has been taken since wind-down entry (R25, fourth condition). -/
  colourTaken : Bool
  deriving DecidableEq, Repr

/-! ## Fetch Unit (R28) -/

/-- A cue record: the four words of a cue slot (R37, R47). -/
structure CueRecord where
  word0 : Word
  word1 : Word
  word2 : Word
  word3 : Word
  deriving DecidableEq, Repr

/-- What a fetch burst reads: one cue slot, or one or two audio slots (R36, R37). -/
inductive BurstKind where
  | cue (slot : Fin Config.cueSlots)
  | audio (slot : Fin Config.audioSlots) (two : Bool)
  deriving DecidableEq, Repr

/-- A granted fetch burst, and whether it has been made void (R39). -/
structure Burst where
  kind : BurstKind
  void : Bool
  deriving DecidableEq, Repr

/-- The Fetch Unit. The burst in flight is held by the Path Unit's port, which it occupies. -/
structure FetchUnit where
  cueMark : Fin Config.cueSlots
  cueFetch : Fin Config.cueSlots
  audioMark : Fin Config.audioSlots
  final : Bool
  audioFetch : Fin Config.audioSlots
  markFault : Bool
  cueBuffer : List CueRecord
  cueBlocked : Bool
  expectedSequence : Byte
  cueTrigger : Nat
  audioTrigger : Nat
  fetchRequest : Bool
  deriving DecidableEq, Repr

/-! ## Audio Unit (R71) -/

/-- A frame: the two words of an audio slot (R74). -/
structure Frame where
  word0 : Word
  word1 : Word
  deriving DecidableEq, Repr

/-- A level monitor (R71). -/
structure Monitor where
  window : Half
  threshold : BitVec 15
  counted : Half
  peak : BitVec 15
  count : Half
  storedPeak : BitVec 15
  storedCount : Half
  deriving DecidableEq, Repr

/-- A monitor as reset leaves it (R71). -/
def Monitor.off : Monitor :=
  { window := 0, threshold := 0, counted := 0, peak := 0, count := 0, storedPeak := 0, storedCount := 0 }

/-- What ABCK, AFCK, AD0 and AD1 are doing (R89, R90): held low; ABCK running with AFCK low and the data lines at zero,
between START and the first frame period; or shifting out the four samples of a frame, the first of a show or a later one. -/
inductive AudioLines where
  | heldLow
  | waiting
  | shifting (samples : Vector Half 4) (firstOfShow : Bool)
  deriving DecidableEq, Repr

/-- The Audio Unit. The frame clock is stopped when `clock` is none. -/
structure AudioUnit where
  clock : Option Rate
  fifo : List Frame
  muteSet : BitVec 4
  underflowCount : Half
  monitors : Vector Monitor 4
  lines : AudioLines
  deriving DecidableEq, Repr

/-! ## Water Unit (R92) -/

/-- A field frame (R113). -/
structure FieldFrame where
  count : Byte
  applied : BitVec 192
  speeds : Vector Half 16
  crc : Half
  deriving DecidableEq, Repr

/-- FLCK and FLD: held low in reset, or sending and then resting after the frame last composed (R114, R115). -/
inductive FieldLink where
  | heldLow
  | frame (sent : FieldFrame)
  deriving DecidableEq, Repr

/-- The Water Unit. Bit v of an image or of the deferred-close set is valve v, that is bit v mod 32 of bank v / 32. -/
structure WaterUnit where
  wanted : BitVec 192
  applied : BitVec 192
  deferred : BitVec 192
  commanded : Vector Nat 16
  output : Vector Nat 16
  frameCount : Byte
  link : FieldLink
  deriving DecidableEq, Repr

/-! ## Light Unit (R136) -/

/-- A light group record (R136). -/
structure LightGroup where
  current : Colour
  target : Colour
  fade : BitVec 10
  follow : Option (Fin 4)
  scale : BitVec 15
  deriving DecidableEq, Repr

/-- The dark colour. -/
def Colour.black : Colour := { red := 0, green := 0, blue := 0, white := 0 }

/-- A light group as reset leaves it (R136). -/
def LightGroup.dark : LightGroup :=
  { current := Colour.black, target := Colour.black, fade := 0, follow := none, scale := 0 }

/-- A colour frame (R150). -/
structure ColourFrame where
  count : Byte
  outputs : Vector Colour 64
  crc : Half
  deriving DecidableEq, Repr

/-- CLD+ and CLD-: held in the reverse of the resting state in reset, or sending and then resting after the frame last
composed, with the level that CLD+ stood at before the frame's first cell (R151). -/
inductive ColourLink where
  | heldReverse
  | frame (sent : ColourFrame) (before : Bool)
  deriving DecidableEq, Repr

/-- The Light Unit. -/
structure LightUnit where
  groups : Vector LightGroup 64
  latestPeak : Vector (BitVec 15) 4
  frameCount : Byte
  link : ColourLink
  deriving DecidableEq, Repr

/-! ## Guard Unit (R117) -/

/-- The Guard Unit. Bit i of a level set is SENSE i, bit e of an entry set is interlock entry e. A debounce timer is
stopped (none) or running with its length in ms, and so is the wind gate timer with its length in seconds. -/
structure GuardUnit where
  raw : Half
  debounced : Half
  timers : Vector (Option Byte) 16
  matched : Byte
  latched : Byte
  gate : Option Byte
  pulses : Half
  lastWind : Half
  band : Fin 4
  deriving DecidableEq, Repr

/-! ## Limit Store (R152) -/

/-- One row of the limit table (section 8.1). -/
abbrev Row := Vector Byte 64

/-- The limit table: 32 rows of 64 bytes (section 8.1). -/
abbrev LimitTable := Vector Row 32

/-- The table states (R153). -/
inductive TableState where
  | blank | invalid | valid
  deriving DecidableEq, Repr

/-- The limit operations (section 8.6). -/
inductive OpName where
  | programRow (row : Fin 32)
  | setLock
  | eraseAll
  deriving DecidableEq, Repr

/-- The operation in progress: which, the staging words fixed at acceptance, which only PROGRAM_ROW uses, and the time
in ms from its acceptance to its completion (R160). -/
structure Operation where
  name : OpName
  words : Vector Word 16
  dueMs : Nat
  deriving DecidableEq, Repr

/-- The outcomes of a limit command (R158), in the order of their status page codes. -/
inductive LimitOutcome where
  | none | accepted | refusedProgEn | refusedArg | refusedState | refusedBusy | refusedStaging | refusedLocked
  deriving DecidableEq, Repr

/-- The last limit command: its code byte and row field byte as written (R187). -/
structure LimitCommand where
  code : Byte
  rowField : Byte
  deriving DecidableEq, Repr

/-- The result of a completed limit operation (R161). -/
inductive CompletionResult where
  | done | verifyFault
  deriving DecidableEq, Repr

/-- The last completion of the limit status (R162). -/
structure Completion where
  result : CompletionResult
  name : OpName
  deriving DecidableEq, Repr

/-- The Limit Store. The table and the lock cell are nonvolatile. -/
structure LimitStore where
  table : LimitTable
  locked : Bool
  tableState : TableState
  staging : Vector Word 16
  marks : Half
  operation : Option Operation
  lastCommand : Option LimitCommand
  outcome : LimitOutcome
  lastCompletion : Option Completion
  deriving DecidableEq, Repr

/-! ## Path Unit (R166) -/

/-- A decided word of a write on its way to memory. A refused word goes with its byte enables deasserted (R172). -/
structure BusWord where
  address : WordAddr
  data : Word
  enables : BitVec 4
  refused : Bool
  deriving DecidableEq, Repr

/-- A forwarded processor transaction (R168). -/
inductive Transaction where
  | write (words : List BusWord)
  | read (target : BusRead)
  deriving DecidableEq, Repr

/-- The memory port: free, or granted to a processor transaction or to a fetch burst (R166). -/
inductive Port where
  | free
  | processor (transaction : Transaction)
  | fetch (burst : Burst)
  deriving DecidableEq, Repr

/-- Who was waiting at the moment the port was to be granted (R173): the processor alone, the fetch unit alone, both as the
port became free, or both arrived together at a free port. -/
inductive Claim where
  | processor | fetch | both | together
  deriving DecidableEq, Repr

/-- The arbiter (R173): the port is granted; it is free and no one was waiting for it; or it is free and a grant is due, which
ARBITER_GRANT makes (log entry 19). -/
inductive Arbiter where
  | busy
  | idle
  | due (claim : Claim)
  deriving DecidableEq, Repr

/-- The Path Unit. `waiting` holds the forwarded transactions taken and not yet granted, oldest first: at most one when the
memory controller keeps R168, which presents a transaction only after the last has completed (log entry 6). `assembling`
holds the decided words of a burst whose last word is still to come, `carried` says that this burst was presented before the
release of RESET_N and goes on undecided (R175), and `readData` holds the words last returned on the P-side. -/
structure PathUnit where
  base : BitVec 6
  refusedCount : Half
  lastRefused : Addr
  waitCount : Fin 9
  port : Port
  arbiter : Arbiter
  waiting : List Transaction
  assembling : List BusWord
  carried : Bool
  readData : List Word
  deriving DecidableEq, Repr

/-! ## Report Unit (R176) -/

/-- The attention causes in priority order, 1 to 9 (R182). -/
inductive Cause where
  | fault | interlock | wind | cue | starved | refused | space | mark | limit
  deriving DecidableEq, Repr

/-- The outcomes of a show command (R176), in the order of their status page codes. -/
inductive CommandOutcome where
  | none | accepted | refusedState | refusedLimits | refusedArg | partialWrite
  deriving DecidableEq, Repr

/-- The Report Unit. Bit k of the pending and enable sets is the cause of priority k + 1 (section 11.2). -/
structure ReportUnit where
  arg0 : Word
  arg1 : Word
  arg2 : Word
  code : Word
  outcome : CommandOutcome
  pending : BitVec 9
  enable : BitVec 9
  /-- ATTN_N is asserted, driven low. -/
  attention : Bool
  deriving DecidableEq, Repr

/-! ## The whole -/

/-- The machine: the nine blocks, RESET_N, the external memory as (byte address, byte) pairs in canonical form, the number
of meetings of a run with a waiting advance so far, and the commands waiting to be taken, oldest first. -/
structure State where
  /-- RESET_N is asserted. -/
  inReset : Bool
  sq : Sequencer
  fu : FetchUnit
  au : AudioUnit
  wu : WaterUnit
  lu : LightUnit
  gu : GuardUnit
  ls : LimitStore
  pu : PathUnit
  ru : ReportUnit
  mem : List Host.Cell
  /-- The model's own count, which `Config.advanceDivides` is read at (log entry 20). -/
  meetings : Nat
  pending : List Instr
  deriving DecidableEq, Repr

/-- Why a step can stop with a fault: no rule of the manual stops the part, so there is no fault. -/
inductive Fault where
  deriving DecidableEq, Repr

/-- Why a step can have no meaning. -/
inductive Refusal where
  /-- A command without a meaning yet, raised by exec's arm for it; safe. No arm raises it. -/
  | notModelled (mnemonic : String)
  deriving DecidableEq, Repr

/-! ## Reset values -/

/-- The sequencer after reset (R1, R50, R70). -/
def Sequencer.reset : Sequencer where
  state := .idle
  kind := .normal
  position := 0
  holdHost := false
  holdInterlock := false
  holdPending := .clear
  sync := .immediate
  rate := .r32000
  valveLeads := Vector.replicate 192 0
  pumpLeads := Vector.replicate 16 0
  lightLags := Vector.replicate 64 0
  starveLimit := 0
  starveCount := 0
  faultRecord := FaultRecord.empty
  lastMark := none
  table := []
  lateCount := 0
  discardedCount := 0
  headAccepted := false
  runDivided := false
  foundSequence := 0
  cueErrorCount := 0
  lastReleased := none
  colourTaken := false

/-- The fetch unit after reset (R28). -/
def FetchUnit.reset : FetchUnit where
  cueMark := 0
  cueFetch := 0
  audioMark := 0
  final := false
  audioFetch := 0
  markFault := false
  cueBuffer := []
  cueBlocked := false
  expectedSequence := 0
  cueTrigger := 2048
  audioTrigger := 57344
  fetchRequest := false

/-- The audio unit after reset (R71, R90). -/
def AudioUnit.reset : AudioUnit where
  clock := none
  fifo := []
  muteSet := 0
  underflowCount := 0
  monitors := Vector.replicate 4 Monitor.off
  lines := .heldLow

/-- The water unit after reset (R92, R115). -/
def WaterUnit.reset : WaterUnit where
  wanted := 0
  applied := 0
  deferred := 0
  commanded := Vector.replicate 16 0
  output := Vector.replicate 16 0
  frameCount := 0
  link := .heldLow

/-- The light unit after reset (R136, R151). -/
def LightUnit.reset : LightUnit where
  groups := Vector.replicate 64 LightGroup.dark
  latestPeak := Vector.replicate 4 0
  frameCount := 0
  link := .heldReverse

/-- The guard unit while RESET_N is asserted (R117): sets empty, timers stopped, band 3. The levels are sampled at release;
until then they stand low, DESIGN CHOICE (log entry 4). -/
def GuardUnit.reset : GuardUnit where
  raw := 0
  debounced := 0
  timers := Vector.replicate 16 none
  matched := 0
  latched := 0
  gate := none
  pulses := 0
  lastWind := 0
  band := 3

/-- The limit table with every byte erased (R153). -/
def LimitTable.erased : LimitTable := Vector.replicate 32 (Vector.replicate 64 Config.erasedByte)

/-- The limit store after reset (R152), with the nonvolatile table erased and unlocked: DESIGN CHOICE (log entry 2), since
the manual does not say what a new part's table holds. -/
def LimitStore.reset : LimitStore where
  table := LimitTable.erased
  locked := false
  tableState := .blank
  staging := Vector.replicate 16 0
  marks := 0
  operation := none
  lastCommand := none
  outcome := .none
  lastCompletion := none

/-- The path unit after reset (R166). The window base is sampled at release; until then it stands at 0, DESIGN CHOICE (log
entry 4). -/
def PathUnit.reset : PathUnit where
  base := 0
  refusedCount := 0
  lastRefused := 0
  waitCount := 0
  port := .free
  arbiter := .idle
  waiting := []
  assembling := []
  carried := false
  readData := []

/-- The report unit after reset (R176). -/
def ReportUnit.reset : ReportUnit where
  arg0 := 0
  arg1 := 0
  arg2 := 0
  code := 0
  outcome := .none
  pending := 0
  enable := 0
  attention := false

/-- The machine at power-on, RESET_N asserted, every item at its reset value (log entry 1). The count of meetings is the
model's own and starts at 0, DESIGN CHOICE (log entry 20). -/
def State.reset : State where
  inReset := true
  sq := Sequencer.reset
  fu := FetchUnit.reset
  au := AudioUnit.reset
  wu := WaterUnit.reset
  lu := LightUnit.reset
  gu := GuardUnit.reset
  ls := LimitStore.reset
  pu := PathUnit.reset
  ru := ReportUnit.reset
  mem := []
  meetings := 0
  pending := []

end Sys2Proof.Machine
end

