-- ==== Sys2Proof/Machine/Ops.lean ====
section
/-! DEFINITION. The shared operations: block setters, tables built by index, sets held as bits, saturating counters, the
external memory, and the raising of attention causes. -/

namespace Sys2Proof.Machine

/-! ## Block setters -/

/-- The state with its Show Sequencer replaced. -/
def State.setSq (s : State) (x : Sequencer) : State := { s with sq := x }
/-- The state with its Fetch Unit replaced. -/
def State.setFu (s : State) (x : FetchUnit) : State := { s with fu := x }
/-- The state with its Audio Unit replaced. -/
def State.setAu (s : State) (x : AudioUnit) : State := { s with au := x }
/-- The state with its Water Unit replaced. -/
def State.setWu (s : State) (x : WaterUnit) : State := { s with wu := x }
/-- The state with its Light Unit replaced. -/
def State.setLu (s : State) (x : LightUnit) : State := { s with lu := x }
/-- The state with its Guard Unit replaced. -/
def State.setGu (s : State) (x : GuardUnit) : State := { s with gu := x }
/-- The state with its Limit Store replaced. -/
def State.setLs (s : State) (x : LimitStore) : State := { s with ls := x }
/-- The state with its Path Unit replaced. -/
def State.setPu (s : State) (x : PathUnit) : State := { s with pu := x }
/-- The state with its Report Unit replaced. -/
def State.setRu (s : State) (x : ReportUnit) : State := { s with ru := x }
/-- The state with its external memory replaced. -/
def State.setMem (s : State) (x : List Host.Cell) : State := { s with mem := x }
/-- The state with its count of meetings replaced. -/
def State.setMeetings (s : State) (x : Nat) : State := { s with meetings := x }
/-- The state with its command queue replaced. -/
def State.setPending (s : State) (x : List Instr) : State := { s with pending := x }

/-! ## Tables and sets -/

/-- The table whose element i is `f i`. -/
def tabulate {α : Type} {n : Nat} (f : Fin n → α) : Vector α n := ⟨⟨List.ofFn f⟩, by simp⟩

/-- The first `k` bits of a set, bit i set exactly when `f i`. -/
def bitsBelow (n : Nat) (f : Nat → Bool) : Nat → BitVec n
  | 0 => 0
  | k + 1 => if f k then bitsBelow n f k ||| BitVec.twoPow n k else bitsBelow n f k

/-- The set of the numbers i below n with `f i`. -/
def bitsOf (n : Nat) (f : Nat → Bool) : BitVec n := bitsBelow n f n

/-- The set with member i added. -/
def bitInsert {n : Nat} (x : BitVec n) (i : Nat) : BitVec n := x ||| BitVec.twoPow n i

/-- The set with member i removed. -/
def bitErase {n : Nat} (x : BitVec n) (i : Nat) : BitVec n := x &&& ~~~ (BitVec.twoPow n i)

/-- The set with member i added or removed. -/
def bitPut {n : Nat} (x : BitVec n) (i : Nat) (b : Bool) : BitVec n := if b then bitInsert x i else bitErase x i

/-- A 16-bit counter raised by n, staying at 65,535 once there (00_scope.md section 6). -/
def saturate16 (c : Half) (n : Nat) : Half := BitVec.ofNat 16 (min 65535 (c.toNat + n))

/-- The secondary fault count raised by one, staying at 255 once there (R21). -/
def saturate8 (c : Byte) : Byte := BitVec.ofNat 8 (min 255 (c.toNat + 1))

/-! ## External memory -/

/-- The canonical form of memory: addresses strictly rising, and no entry equal to what an unlisted address reads as. -/
abbrev Memory.wf (m : List Host.Cell) : Prop :=
  m.Pairwise (fun c d => c.1 < d.1) ∧ ∀ c ∈ m, c.2 ≠ Config.powerOnByte

/-- The byte at an address. -/
def Memory.read : List Host.Cell → Nat → Byte
  | [], _ => Config.powerOnByte
  | (b, v) :: m, a => if b = a then v else Memory.read m a

/-- A cell in front of a memory, left out when it holds what an unlisted address reads as. -/
def Memory.cons (a : Nat) (v : Byte) (m : List Host.Cell) : List Host.Cell :=
  if v = Config.powerOnByte then m else (a, v) :: m

/-- Memory with the byte at an address replaced, in canonical form. -/
def Memory.write : List Host.Cell → Nat → Byte → List Host.Cell
  | [], a, v => Memory.cons a v []
  | (b, w) :: m, a, v =>
    if a < b then Memory.cons a v ((b, w) :: m)
    else if a = b then Memory.cons a v m
    else (b, w) :: Memory.write m a v

/-- Byte k of a word, the least significant first: fields in memory are little-endian (00_scope.md section 6). -/
def wordByte (w : Word) (k : Nat) : Byte := w.extractLsb' (8 * k) 8

/-- The word whose bytes are b0 to b3, b0 least significant. -/
def wordOfBytes (b0 b1 b2 b3 : Byte) : Word := b3 ++ b2 ++ b1 ++ b0

/-- The word at a word address. -/
def Memory.readWord (m : List Host.Cell) (a : WordAddr) : Word :=
  let n := a.toAddr.toNat
  wordOfBytes (Memory.read m n) (Memory.read m (n + 1)) (Memory.read m (n + 2)) (Memory.read m (n + 3))

/-- Memory with byte k of a word written if its byte enable is asserted. -/
def Memory.writeLane (m : List Host.Cell) (w : BusWord) (k : Nat) : List Host.Cell :=
  if w.enables.getLsbD k then Memory.write m (w.address.toAddr.toNat + k) (wordByte w.data k) else m

/-- Memory with one word of a write taken, under its byte enables. -/
def Memory.writeWord (m : List Host.Cell) (w : BusWord) : List Host.Cell :=
  Memory.writeLane (Memory.writeLane (Memory.writeLane (Memory.writeLane m w 0) w 1) w 2) w 3

/-- Memory with all the words of a write taken, in order. -/
def Memory.writeWords (m : List Host.Cell) (ws : List BusWord) : List Host.Cell := ws.foldl Memory.writeWord m

/-- The word addresses of the aligned burst of four words that an address lies in (R168). -/
def burstAddresses (a : WordAddr) : List WordAddr :=
  let first := a &&& ~~~ (3 : WordAddr)
  [first, first + 1, first + 2, first + 3]

/-- The word addresses a read covers (R168). -/
def readAddresses (r : BusRead) : List WordAddr := if r.burst then burstAddresses r.address else [r.address]

/-! ## Attention causes -/

/-- The bit of a cause in the pending and enable sets: its priority less one (section 11.2). -/
def Cause.bit : Cause → Nat
  | .fault => 0
  | .interlock => 1
  | .wind => 2
  | .cue => 3
  | .starved => 4
  | .refused => 5
  | .space => 6
  | .mark => 7
  | .limit => 8

/-- A raised cause joins the pending set (R182). ATTN_N follows at the end of the event (`settle`). -/
def raise (c : Cause) (s : State) : State :=
  s.setRu { s.ru with pending := bitInsert s.ru.pending c.bit }

end Sys2Proof.Machine
end

