-- ==== Sys2Proof/Machine/Limits.lean ====
section
/-! DEFINITION. Reading the limit table: its bytes and fields (section 11.4), the CRC-32 (R189), the consistency rules
(R154) and the table state (R153). -/

namespace Sys2Proof.Machine

/-! ## Bytes and fields -/

/-- Byte n of the table, 0 to 2,047: byte n mod 64 of row n / 64 (section 8.1). -/
def LimitTable.byte (t : LimitTable) (n : Nat) : Byte :=
  if h : n < 2048 then (t[n / 64]'(by omega))[n % 64]'(by omega) else 0

/-- The little-endian 16-bit field at byte n. -/
def LimitTable.half (t : LimitTable) (n : Nat) : Nat := (t.byte n).toNat + 256 * (t.byte (n + 1)).toNat

/-- The little-endian 32-bit field at byte n. -/
def LimitTable.word (t : LimitTable) (n : Nat) : Word :=
  wordOfBytes (t.byte n) (t.byte (n + 1)) (t.byte (n + 2)) (t.byte (n + 3))

/-- The table's bytes in ascending order. -/
def LimitTable.bytes (t : LimitTable) : List Byte := t.toList.flatMap Vector.toList

/-- Pump p's class. -/
def LimitTable.pumpClass (t : LimitTable) (p : Nat) : Nat := (t.byte (16 * p)).toNat
/-- Pump p's min-open count. -/
def LimitTable.minOpen (t : LimitTable) (p : Nat) : Nat := (t.byte (16 * p + 1)).toNat
/-- Pump p's idle speed. -/
def LimitTable.idleSpeed (t : LimitTable) (p : Nat) : Nat := t.half (16 * p + 2)
/-- Pump p's max speed. -/
def LimitTable.maxSpeed (t : LimitTable) (p : Nat) : Nat := t.half (16 * p + 4)
/-- Pump p's up rate. -/
def LimitTable.upRate (t : LimitTable) (p : Nat) : Nat := t.half (16 * p + 6)
/-- Pump p's down rate. -/
def LimitTable.downRate (t : LimitTable) (p : Nat) : Nat := t.half (16 * p + 8)
/-- Pump p's trip rate. -/
def LimitTable.tripRate (t : LimitTable) (p : Nat) : Nat := t.half (16 * p + 10)
/-- Pump p's lead in ms. -/
def LimitTable.pumpLead (t : LimitTable) (p : Nat) : Nat := t.half (16 * p + 12)
/-- Valve v is on pump p's header: bit v mod 8 of byte 256 + 24p + v / 8. -/
def LimitTable.onHeader (t : LimitTable) (p v : Nat) : Bool := (t.byte (256 + 24 * p + v / 8)).getLsbD (v % 8)
/-- Valve v's lead in ms. -/
def LimitTable.valveLead (t : LimitTable) (v : Nat) : Nat := t.half (640 + 2 * v)
/-- Group g's lag in ms. -/
def LimitTable.lightLag (t : LimitTable) (g : Nat) : Nat := t.half (1024 + 4 * g)
/-- Group g is submerged: bit 0 of its flags byte. -/
def LimitTable.submerged (t : LimitTable) (g : Nat) : Bool := (t.byte (1024 + 4 * g + 2)).getLsbD 0
/-- Group g's safe level. -/
def LimitTable.safeLevel (t : LimitTable) (g : Nat) : Byte := t.byte (1024 + 4 * g + 3)
/-- The wind gate length in seconds. -/
def LimitTable.gateLength (t : LimitTable) : Byte := t.byte 1280
/-- The threshold up[b], for b of 1, 2 and 3. -/
def LimitTable.windUp (t : LimitTable) (b : Nat) : Nat := t.half (1280 + 2 * b)
/-- The threshold down[b], for b of 1, 2 and 3. -/
def LimitTable.windDown (t : LimitTable) (b : Nat) : Nat := t.half (1286 + 2 * b)
/-- The wind cap of a class and band. -/
def LimitTable.windCap (t : LimitTable) (c b : Nat) : Nat := t.half (1296 + 8 * c + 2 * b)
/-- The spec code of input i in interlock entry e: low four bits of byte i / 2 for even i, high four for odd i. -/
def LimitTable.spec (t : LimitTable) (e i : Nat) : Nat :=
  let b := (t.byte (1344 + 16 * e + i / 2)).toNat
  if i % 2 = 0 then b % 16 else b / 16
/-- The mode of interlock entry e: 0 ALL, 1 ANY. -/
def LimitTable.entryMode (t : LimitTable) (e : Nat) : Nat := (t.byte (1344 + 16 * e + 8)).toNat
/-- The action of interlock entry e: 0 HOLD, 1 DERATE, 2 DARK, 3 TRIP. -/
def LimitTable.entryAction (t : LimitTable) (e : Nat) : Nat := (t.byte (1344 + 16 * e + 9)).toNat
/-- The derate level of interlock entry e. -/
def LimitTable.derateLevel (t : LimitTable) (e : Nat) : Nat := t.half (1344 + 16 * e + 10)
/-- The latch flag of interlock entry e. -/
def LimitTable.latchFlag (t : LimitTable) (e : Nat) : Bool := (t.byte (1344 + 16 * e + 12)).getLsbD 0
/-- The starve limit in ms. -/
def LimitTable.starveLimitMs (t : LimitTable) : Nat := t.half 1472
/-- The debounce time in ms. -/
def LimitTable.debounceMs (t : LimitTable) : Byte := t.byte 1474
/-- The table revision. -/
def LimitTable.revision (t : LimitTable) : Word := t.word 1476
/-- The wind-down fade in colour periods. -/
def LimitTable.winddownFade (t : LimitTable) : Nat := t.half 1480

/-! ## The check and the table state -/

/-- One bit of the reflected CRC-32: polynomial 0x04C11DB7, whose reflection is 0xEDB88320 (R189). -/
def crc32Bit (c : Word) : Word := if c.getLsbD 0 then (c >>> 1) ^^^ 0xEDB88320 else c >>> 1

/-- One byte of the CRC-32, least significant bit first (R189). -/
def crc32Byte (c : Word) (b : Byte) : Word :=
  crc32Bit (crc32Bit (crc32Bit (crc32Bit (crc32Bit (crc32Bit (crc32Bit (crc32Bit (c ^^^ b.setWidth 32))))))))

/-- The CRC-32 of some bytes (R189). -/
def crc32 (bytes : List Byte) : Word := bytes.foldl crc32Byte 0xFFFFFFFF ^^^ 0xFFFFFFFF

/-- The check holds: the CRC-32 of bytes 0 to 2,043 equals the value in bytes 2,044 to 2,047 (R153). -/
def LimitTable.checkHolds (t : LimitTable) : Bool := decide (crc32 (t.bytes.take 2044) = t.word 2044)

/-- A rate is 1 to 1,000 (R154). -/
def lawfulRate (r : Nat) : Bool := decide (1 ≤ r ∧ r ≤ 1000)

/-- The rules of R154 on pump p's parameters. -/
def LimitTable.pumpConsistent (t : LimitTable) (p : Nat) : Bool :=
  decide (t.pumpClass p ≤ 3) && decide (t.minOpen p ≤ 32) &&
  decide (t.idleSpeed p ≤ t.maxSpeed p) && decide (t.maxSpeed p ≤ 1000) &&
  lawfulRate (t.upRate p) && lawfulRate (t.downRate p) && lawfulRate (t.tripRate p) &&
  decide (t.pumpLead p ≤ 8000)

/-- The rules of R154 on the wind gate, thresholds and caps. -/
def LimitTable.windConsistent (t : LimitTable) : Bool :=
  decide (1 ≤ t.gateLength.toNat ∧ t.gateLength.toNat ≤ 10) &&
  decide (t.windUp 1 < t.windUp 2) && decide (t.windUp 2 < t.windUp 3) &&
  decide (t.windDown 1 < t.windUp 1) && decide (t.windDown 2 < t.windUp 2) && decide (t.windDown 3 < t.windUp 3) &&
  (List.range 4).all (fun c => (List.range 4).all (fun b => decide (t.windCap c b ≤ 1000)))

/-- The rules of R154 on interlock entry e. -/
def LimitTable.entryConsistent (t : LimitTable) (e : Nat) : Bool :=
  (List.range 16).all (fun i => decide (t.spec e i ≤ 5)) &&
  decide (t.entryMode e ≤ 1) && decide (t.entryAction e ≤ 3) && decide (t.derateLevel e ≤ 1000)

/-- The consistency rules of a VALID table (R154). -/
def LimitTable.consistent (t : LimitTable) : Bool :=
  (List.range 16).all t.pumpConsistent &&
  (List.range 192).all (fun v => decide (t.valveLead v ≤ 8000)) &&
  (List.range 64).all (fun g => decide (t.lightLag g ≤ 4000)) &&
  t.windConsistent &&
  (List.range 8).all t.entryConsistent &&
  decide (100 ≤ t.starveLimitMs ∧ t.starveLimitMs ≤ 10000) &&
  decide (1 ≤ t.debounceMs.toNat) &&
  decide (t.winddownFade ≤ 1023)

/-- Every byte is 0xFF (R153). -/
def LimitTable.isErased (t : LimitTable) : Bool := t.bytes.all (fun b => decide (b = Config.erasedByte))

/-- The table state worked out from the table as a whole (R153). -/
def LimitTable.state (t : LimitTable) : TableState :=
  if t.isErased then .blank
  else if t.consistent && t.checkHolds then .valid
  else .invalid

/-! ## Rows -/

/-- An erased row. -/
def Row.erased : Row := Vector.replicate 64 Config.erasedByte

/-- The row sixteen staging words make: word i fills bytes 4i to 4i + 3, least significant byte first (R161). -/
def Row.ofWords (ws : Vector Word 16) : Row :=
  tabulate fun j : Fin 64 => wordByte (ws[j.val / 4]'(by omega)) (j.val % 4)

/-- The table with one row replaced. -/
def LimitTable.setRow (t : LimitTable) (r : Fin 32) (row : Row) : LimitTable := t.set r.val row r.isLt

/-- The limit store has a VALID table. -/
def LimitStore.valid (x : LimitStore) : Bool := decide (x.tableState = .valid)

/-! ## Limits the guard unit takes (R118) -/

/-- The debounce time in force. -/
def LimitStore.debounce (x : LimitStore) : Byte := if x.valid then x.table.debounceMs else Config.fallbackDebounce

/-- The wind gate length in force. -/
def LimitStore.gate (x : LimitStore) : Byte := if x.valid then x.table.gateLength else Config.fallbackGate

/-! ## Interlock entries (R121, R122) -/

/-- The interlock actions (R121). -/
inductive InterlockAction where
  | hold | derate | dark | trip
  deriving DecidableEq, Repr

/-- The action an action code names (R121). -/
def InterlockAction.ofCode : Nat → Option InterlockAction
  | 0 => some .hold
  | 1 => some .derate
  | 2 => some .dark
  | 3 => some .trip
  | _ => none

/-- Entry e has an action. -/
def LimitTable.hasAction (t : LimitTable) (e : Nat) (a : InterlockAction) : Bool :=
  decide (InterlockAction.ofCode (t.entryAction e) = some a)

/-- A spec code is an edge spec (R121). -/
def edgeSpec (code : Nat) : Bool := decide (3 ≤ code ∧ code ≤ 5)

/-- Entry e is latching: its latch flag is set or one of its specs is an edge spec (R121). -/
def LimitTable.latching (t : LimitTable) (e : Nat) : Bool :=
  t.latchFlag e || (List.range 16).any (fun i => edgeSpec (t.spec e i))

/-- A spec other than ignore holds, given its input's debounced level and the edge, if any, on that input for which the
evaluation is made, true for a rising one (R122). -/
def specHolds (code : Nat) (level : Bool) (edge : Option Bool) : Bool :=
  match code with
  | 1 => !level
  | 2 => level
  | 3 => edge == some true
  | 4 => edge == some false
  | 5 => edge.isSome
  | _ => false

/-- The edge on input i of the edge an evaluation is made for. -/
def edgeOn (edge : Option (Fin 16 × Bool)) (i : Nat) : Option Bool :=
  match edge with
  | some (j, rising) => if j.val = i then some rising else none
  | none => none

/-- The pattern of entry e holds (R122): in ALL mode every spec other than ignore holds, in ANY mode at least one does, and
an entry whose specs are all ignore does not match. -/
def LimitTable.patternHolds (t : LimitTable) (e : Nat) (levels : Half) (edge : Option (Fin 16 × Bool)) : Bool :=
  let used := (List.range 16).filter (fun i => decide (t.spec e i ≠ 0))
  let holds := fun i => specHolds (t.spec e i) (levels.getLsbD i) (edgeOn edge i)
  if t.entryMode e = 0 then !used.isEmpty && used.all holds else used.any holds

/-- The pattern of entry e holds for the part: a table that is not VALID has every spec ignore (R118). -/
def entryHolds (s : State) (edge : Option (Fin 16 × Bool)) (e : Nat) : Bool :=
  s.ls.valid && s.ls.table.patternHolds e s.gu.debounced edge

/-- An entry with the action is in the matched set. -/
def anyMatched (s : State) (a : InterlockAction) : Bool :=
  (List.range 8).any (fun e => s.gu.matched.getLsbD e && s.ls.table.hasAction e a)

end Sys2Proof.Machine
end

