-- ==== Sys2Proof/Machine/Links.lean ====
section
/-! DEFINITION. The serial links: the CRC-16 (R189), the bytes and bits of the field and colour frames (R113, R114, R150,
R151, section 11.5) and of the serial audio lines (R89), and the levels of all these lines over a period (R90, R115, R151). -/

namespace Sys2Proof.Machine

/-- One bit of the CRC-16: polynomial 0x1021 (R189). -/
def crc16Bit (c : Half) : Half := if c.getLsbD 15 then (c <<< 1) ^^^ 0x1021 else c <<< 1

/-- One byte of the CRC-16, most significant bit first (R189). -/
def crc16Byte (c : Half) (b : Byte) : Half :=
  crc16Bit (crc16Bit (crc16Bit (crc16Bit (crc16Bit (crc16Bit (crc16Bit (crc16Bit (c ^^^ (b.setWidth 16 <<< 8)))))))))

/-- The CRC-16 of some bytes (R189). -/
def crc16 (bytes : List Byte) : Half := bytes.foldl crc16Byte 0xFFFF

/-- The bytes of a 16-bit field sent most significant bit first. -/
def halfBytes (h : Half) : List Byte := [h.extractLsb' 8 8, h.extractLsb' 0 8]

/-- The bytes of a 32-bit field sent most significant bit first. -/
def wordBytesMsb (w : Word) : List Byte := [wordByte w 3, wordByte w 2, wordByte w 1, wordByte w 0]

/-- The bits of a byte, most significant first. -/
def byteBits (b : Byte) : List Bool := (List.range 8).map (fun k => b.getLsbD (7 - k))

/-- The bits of some bytes, each most significant bit first. -/
def bitsOfBytes (bytes : List Byte) : List Bool := bytes.flatMap byteBits

/-- Bank b of a valve image: valve 32b + i is its bit i (section 11.3). -/
def bankOf (image : BitVec 192) (b : Nat) : Word := image.extractLsb' (32 * b) 32

/-! ## Field frame -/

/-- The 57 bytes a field frame's CRC-16 covers: count, banks and speeds (section 11.5). -/
def fieldBody (count : Byte) (applied : BitVec 192) (speeds : Vector Half 16) : List Byte :=
  [count] ++ (List.range 6).flatMap (fun b => wordBytesMsb (bankOf applied b)) ++ speeds.toList.flatMap halfBytes

/-- A field frame composed from a count, the applied image and the output speeds (R113). -/
def FieldFrame.compose (count : Byte) (applied : BitVec 192) (output : Vector Nat 16) : FieldFrame :=
  let speeds : Vector Half 16 := tabulate fun p => BitVec.ofNat 16 output[p]
  { count := count, applied := applied, speeds := speeds, crc := crc16 (fieldBody count applied speeds) }

/-- The 488 bits of a field frame on FLD, in the order they are sent (R113, R114). -/
def FieldFrame.bits (f : FieldFrame) : List Bool :=
  bitsOfBytes (halfBytes Config.fieldSync ++ fieldBody f.count f.applied f.speeds ++ halfBytes f.crc)

/-! ## Colour frame -/

/-- The four slots of a group: red, green, blue, white (R150). -/
def Colour.bytes (c : Colour) : List Byte := [c.red, c.green, c.blue, c.white]

/-- The 257 bytes a colour frame's CRC-16 covers: count and slots (section 11.5). -/
def colourBody (count : Byte) (outputs : Vector Colour 64) : List Byte :=
  [count] ++ outputs.toList.flatMap Colour.bytes

/-- A colour frame composed from a count and the 64 groups' outputs (R150). -/
def ColourFrame.compose (count : Byte) (outputs : Vector Colour 64) : ColourFrame :=
  { count := count, outputs := outputs, crc := crc16 (colourBody count outputs) }

/-- The 2,088 bits of a colour frame, in the order they are sent (R150, R151). -/
def ColourFrame.bits (f : ColourFrame) : List Bool :=
  bitsOfBytes (halfBytes Config.colourSync ++ colourBody f.count f.outputs ++ halfBytes f.crc)

/-- The levels of CLD+ over the two halves of each cell, given its level before the first: the line changes at the start
of every cell, and again at the middle for a 1 (R151). -/
def colourCells : Bool → List Bool → List (Bool × Bool)
  | _, [] => []
  | level, bit :: bits =>
    let first := !level
    let second := if bit then !first else first
    (first, second) :: colourCells second bits

/-! ## Serial audio -/

/-- The sample of a channel in a frame: channels 0 and 1 in word 0, 2 and 3 in word 1, the even one in the low half (R74). -/
def Frame.sample (f : Frame) (c : Fin 4) : Half :=
  match c with
  | 0 => f.word0.extractLsb' 0 16
  | 1 => f.word0.extractLsb' 16 16
  | 2 => f.word1.extractLsb' 0 16
  | 3 => f.word1.extractLsb' 16 16

/-- A silent frame: four zero samples (R73). -/
def Frame.silent : Frame := { word0 := 0, word1 := 0 }

/-- The bits of a sample, most significant first (R89). -/
def sampleBits (x : Half) : List Bool := bitsOfBytes (halfBytes x)

/-- The 32 bits of AD0 over one frame period: channel 0 while AFCK is low, channel 1 while it is high (R89). -/
def ad0Bits (samples : Vector Half 4) : List Bool := sampleBits samples[0] ++ sampleBits samples[1]

/-- The 32 bits of AD1 over one frame period: channel 2 while AFCK is low, channel 3 while it is high (R89). -/
def ad1Bits (samples : Vector Half 4) : List Bool := sampleBits samples[2] ++ sampleBits samples[3]

/-- AFCK over the 32 ABCK periods of one frame period: low for the first 16, high for the next 16 (R89). -/
def afckLevels : List Bool := List.replicate 16 false ++ List.replicate 16 true

/-- A frame period begins with a falling edge of AFCK, but for the first of a show, which begins with AFCK low already (R89,
R90). -/
def AudioLines.beginsWithFallingEdge : AudioLines → Bool
  | .shifting _ firstOfShow => !firstOfShow
  | .heldLow => false
  | .waiting => false

/-- The levels of the four serial audio lines. -/
structure AudioLevels where
  abck : Bool
  afck : Bool
  ad0 : Bool
  ad1 : Bool
  deriving DecidableEq, Repr

/-- All four lines low. -/
def AudioLevels.low : AudioLevels := { abck := false, afck := false, ad0 := false, ad1 := false }

/-- A bit clock over the halves of its periods: each begins with the falling edge, on which data changes, and has the rising
edge, on which data is taken, between its halves (R89, R114). -/
def clockLevel (half : Nat) : Bool := decide (half % 2 = 1)

/-- The levels of the audio lines over a frame period, in the halves of its 32 ABCK periods: held low while the frame clock is
stopped; from START to the first frame period ABCK alone running; and afterwards the frame shifted out (R89, R90). -/
def AudioLines.levels (x : AudioLines) (half : Fin 64) : AudioLevels :=
  match x with
  | .heldLow => AudioLevels.low
  | .waiting => { AudioLevels.low with abck := clockLevel half }
  | .shifting samples _ =>
    { abck := clockLevel half
      afck := afckLevels.getD (half / 2) false
      ad0 := (ad0Bits samples).getD (half / 2) false
      ad1 := (ad1Bits samples).getD (half / 2) false }

/-! ## The two links over a period -/

/-- FLCK and FLD rest high after a frame, and are held low in reset (R114, R115). -/
def FieldLink.restLevel : FieldLink → Bool
  | .heldLow => false
  | .frame _ => true

/-- The levels of FLCK and FLD over a field period, in the halves of FLCK periods: one bit of the frame for each FLCK period,
and the resting level after them (R114, R115). -/
def FieldLink.levels (x : FieldLink) (half : Nat) : Bool × Bool :=
  match x with
  | .heldLow => (x.restLevel, x.restLevel)
  | .frame sent =>
    match sent.bits[half / 2]? with
    | some bit => (clockLevel half, bit)
    | none => (x.restLevel, x.restLevel)

/-- The levels of CLD+ and CLD- at rest, and their reverse in reset (R151). -/
def ColourLink.restLevels : ColourLink → Bool × Bool
  | .heldReverse => (false, true)
  | .frame _ _ => (true, false)

/-- The levels of CLD+ and CLD- over a colour period, in half cells: the cells of the frame's bits, CLD- always the reverse of
CLD+, and the resting levels after them (R151). -/
def ColourLink.levels (x : ColourLink) (half : Nat) : Bool × Bool :=
  match x with
  | .heldReverse => x.restLevels
  | .frame sent before =>
    match (colourCells before sent.bits)[half / 2]? with
    | some (first, second) =>
      let plus := if half % 2 = 0 then first else second
      (plus, !plus)
    | none => x.restLevels

end Sys2Proof.Machine
end

