-- ==== Sys2Proof/Machine/Light.lean ====
section
/-! DEFINITION. The Light Unit (chapter 7): fades, releases, peaks, outputs, wind-down, ambient light and the colour period. -/

namespace Sys2Proof.Machine

/-! ## Fades -/

/-- A distance divided by the periods left, rounded away from the current value (R139). -/
def fadeShare (distance n : Nat) : Nat := (distance + n - 1) / n

/-- One component moved from its current value toward its target with n periods remaining, n above 0 (R139). -/
def fadeComponent (n : Nat) (c t : Byte) : Byte :=
  if c.toNat < t.toNat then BitVec.ofNat 8 (c.toNat + fadeShare (t.toNat - c.toNat) n)
  else BitVec.ofNat 8 (c.toNat - fadeShare (c.toNat - t.toNat) n)

/-- A colour moved toward its target with n periods remaining, n above 0 (R139). -/
def fadeColour (n : Nat) (c t : Colour) : Colour :=
  { red := fadeComponent n c.red t.red
    green := fadeComponent n c.green t.green
    blue := fadeComponent n c.blue t.blue
    white := fadeComponent n c.white t.white }

/-- One group stepped at a colour period (R139). -/
def LightGroup.fadeStep (g : LightGroup) : LightGroup :=
  if g.fade = 0 then { g with current := g.target }
  else { g with current := fadeColour g.fade.toNat g.current g.target, fade := g.fade - 1 }

/-- A group has finished its fade (R140). -/
def LightGroup.finished (g : LightGroup) : Bool := decide (g.fade = 0 ∧ g.current = g.target)

/-! ## Records -/

/-- A group given a target and a fade, its current colour left as it stands (R141). -/
def LightGroup.fadeTo (g : LightGroup) (target : Colour) (fade : BitVec 10) : LightGroup :=
  { g with target := target, fade := fade }

/-- A group bound to a music channel with a scale (R142). -/
def LightGroup.bind (g : LightGroup) (c : Fin 4) (scale : BitVec 15) : LightGroup :=
  { g with follow := some c, scale := scale }

/-- A group without a follow binding (R142). -/
def LightGroup.unbind (g : LightGroup) : LightGroup := { g with follow := none, scale := 0 }

/-- The light unit with one group's record changed. -/
def LightUnit.setGroup (x : LightUnit) (g : Fin 64) (r : LightGroup) : LightUnit :=
  { x with groups := x.groups.set g.val r g.isLt }

/-- The light unit with every group's record changed, given its number. -/
def LightUnit.mapGroups (x : LightUnit) (f : Fin 64 → LightGroup → LightGroup) : LightUnit :=
  { x with groups := tabulate fun g => f g x.groups[g] }

/-- Delivery of a LIGHT entry (R65, R141). -/
def releaseLight (g : Fin 64) (colour : Colour) (fade : BitVec 10) (s : State) : State :=
  s.setLu (s.lu.setGroup g (s.lu.groups[g].fadeTo colour fade))

/-- Delivery of a FOLLOW entry (R66, R142). -/
def releaseFollow (g : Fin 64) (channel : Option (Fin 4)) (s : State) : State :=
  match channel with
  | some c => s.setLu (s.lu.setGroup g (s.lu.groups[g].bind c s.lu.latestPeak[c]))
  | none => s.setLu (s.lu.setGroup g s.lu.groups[g].unbind)

/-- A group given the scale of its channel's new peak, if it is bound to that channel (R143). -/
def LightGroup.takePeak (c : Fin 4) (peak : BitVec 15) (g : LightGroup) : LightGroup :=
  if g.follow = some c then { g with scale := peak } else g

/-- A peak handed by the audio unit for channel c (R143). -/
def takePeak (c : Fin 4) (peak : BitVec 15) (s : State) : State :=
  s.setLu { s.lu.mapGroups (fun _ g => g.takePeak c peak) with
    latestPeak := s.lu.latestPeak.set c.val peak c.isLt }

/-! ## Wind-down and ambient light -/

/-- The colour whose four components are one level. -/
def Colour.level (b : Byte) : Colour := { red := b, green := b, blue := b, white := b }

/-- The fade in colour periods that a wind-down of a kind gives: the table's wind-down fade, or 0 for a fault (R146, R147). -/
def winddownFadeOf (kind : WinddownKind) (t : LimitTable) : BitVec 10 :=
  match kind with
  | .normal => BitVec.ofNat 10 t.winddownFade
  | .fault => 0

/-- Wind-down entry at the light unit: every group sent to its safe level, its binding removed (R146, R147). -/
def lightWinddown (kind : WinddownKind) (s : State) : State :=
  s.setLu (s.lu.mapGroups fun g r =>
    (r.fadeTo (Colour.level (s.ls.table.safeLevel g)) (winddownFadeOf kind s.ls.table)).unbind)

/-- Conversion of a normal wind-down to the fault kind at the light unit: every fade cut to 0 (R147). -/
def lightConversion (s : State) : State := s.setLu (s.lu.mapGroups fun _ r => { r with fade := 0 })

/-- The colour AMBIENT takes from ARG0 (R149). -/
def colourOfWord (w : Word) : Colour :=
  { red := wordByte w 0, green := wordByte w 1, blue := wordByte w 2, white := wordByte w 3 }

/-- An accepted AMBIENT: every group fades to the colour, its binding removed (R149). -/
def ambientLight (colour : Colour) (fade : BitVec 10) (s : State) : State :=
  s.setLu (s.lu.mapGroups fun _ r => (r.fadeTo colour fade).unbind)

/-! ## Output and the colour period -/

/-- A component scaled by a follow scale (R144). -/
def scaleComponent (scale : BitVec 15) (c : Byte) : Byte :=
  BitVec.ofNat 8 (c.toNat * scale.toNat / Config.magnitudeMax)

/-- A colour scaled by a follow scale (R144). -/
def Colour.scaled (c : Colour) (scale : BitVec 15) : Colour :=
  { red := scaleComponent scale c.red
    green := scaleComponent scale c.green
    blue := scaleComponent scale c.blue
    white := scaleComponent scale c.white }

/-- Group g is darkened: it is submerged and a DARK entry is matched (R144). -/
def darkened (s : State) (g : Nat) : Bool := s.ls.table.submerged g && anyMatched s .dark

/-- The output of group g (R144). -/
def groupOutput (s : State) (g : Fin 64) : Colour :=
  let r := s.lu.groups[g]
  if darkened s g then Colour.black
  else
    match r.follow with
    | some _ => r.current.scaled r.scale
    | none => r.current

/-- Step 1 of a colour period: every group stepped (R138, R139). -/
def stepFades (s : State) : State := s.setLu (s.lu.mapGroups fun _ r => r.fadeStep)

/-- Steps 2 to 4 of a colour period: outputs worked out, the colour frame composed and sent, the count raised (R138). The
frame's first cell begins from the level that CLD+ stands at, resting, or held in reset (R151). -/
def sendColourFrame (s : State) : State :=
  s.setLu { s.lu with
    link := .frame (ColourFrame.compose s.lu.frameCount (tabulate (groupOutput s))) s.lu.link.restLevels.1
    frameCount := s.lu.frameCount + 1 }

/-- The light unit's colour period (R138). -/
def lightPeriod (s : State) : State := sendColourFrame (stepFades s)

/-- Every light group has finished its fade (R25, R140). -/
def lightsFinished (s : State) : Bool := (List.finRange 64).all (fun g => s.lu.groups[g].finished)

end Sys2Proof.Machine
end

