-- ==== Sys2Proof/Machine/Water.lean ====
section
/-! DEFINITION. The Water Unit (chapter 5): headers and blocking pumps, opens and closes, caps, targets, ramps, deferred
closes and the field period. -/

namespace Sys2Proof.Machine

/-! ## Headers and blocking pumps -/

/-- The number of valves on pump p's header that are open in an image (R94). -/
def headerCount (t : LimitTable) (p : Nat) (image : BitVec 192) : Nat :=
  (List.range 192).countP (fun v => image.getLsbD v && t.onHeader p v)

/-- Pump p's wanted open count is below its min-open count (R94, R102). -/
def shortHeader (s : State) (p : Nat) : Bool :=
  decide (headerCount s.ls.table p s.wu.wanted < s.ls.table.minOpen p)

/-- Pump p's output speed exceeds its idle speed. -/
def aboveIdle (s : State) (p : Fin 16) : Bool := decide (s.ls.table.idleSpeed p < s.wu.output[p])

/-- Pump p is a blocking pump for valve v (R94). -/
def blocks (s : State) (p : Fin 16) (v : Nat) : Bool :=
  aboveIdle s p && s.ls.table.onHeader p v && shortHeader s p

/-- Valve v has a blocking pump (R94). -/
def hasBlocking (s : State) (v : Nat) : Bool := (List.finRange 16).any (fun p => blocks s p v)

/-! ## Opens and closes -/

/-- Wanting valve v open: it is applied open at once, and a deferred close of it is withdrawn (R96). -/
def wantOpen (v : Nat) (s : State) : State :=
  s.setWu { s.wu with
    wanted := bitInsert s.wu.wanted v
    applied := bitInsert s.wu.applied v
    deferred := bitErase s.wu.deferred v }

/-- The first half of a close of valve v: it is wanted closed. -/
def wantedClosed (v : Nat) (s : State) : State := s.setWu { s.wu with wanted := bitErase s.wu.wanted v }

/-- The second half of a close of valve v, judged with v already wanted closed: deferred while it has a blocking pump,
applied closed otherwise (R97). -/
def applyOrDefer (v : Nat) (s : State) : State :=
  if hasBlocking s v then s.setWu { s.wu with deferred := bitInsert s.wu.deferred v }
  else s.setWu { s.wu with applied := bitErase s.wu.applied v }

/-- Wanting valve v closed; nothing changes if it is wanted closed already (R97). -/
def wantClose (v : Nat) (s : State) : State :=
  if s.wu.wanted.getLsbD v then applyOrDefer v (wantedClosed v s) else s

/-- Commanding pump p to a speed (R64, R100). -/
def commandPump (p : Fin 16) (speed : Nat) (s : State) : State :=
  s.setWu { s.wu with commanded := s.wu.commanded.set p.val speed p.isLt }

/-- Wind-down entry at the water unit: every pump commanded to 0, then a close delivered for every valve in ascending
order; a valve wanted closed already is left as it stands (R110). -/
def waterWinddown (s : State) : State :=
  (List.range 192).foldl (fun s v => wantClose v s) (s.setWu { s.wu with commanded := Vector.replicate 16 0 })

/-! ## Caps, targets and ramps -/

/-- The wind cap of pump p, for its class and the present band (R103). -/
def windCapOf (s : State) (p : Nat) : Nat := s.ls.table.windCap (s.ls.table.pumpClass p) s.gu.band

/-- The derate levels of the matched DERATE entries, and 1,000, which never lowers a cap (R104). -/
def derateTerm (s : State) : Nat :=
  (List.range 8).foldl
    (fun m e => if s.gu.matched.getLsbD e && s.ls.table.hasAction e .derate then min m (s.ls.table.derateLevel e) else m)
    Config.fullSpeed

/-- The deadhead cap of pump p (R102). -/
def deadheadCap (s : State) (p : Nat) : Nat := if shortHeader s p then s.ls.table.idleSpeed p else Config.fullSpeed

/-- The effective cap of pump p: the lowest of its four terms (R101). -/
def effectiveCap (s : State) (p : Nat) : Nat :=
  min (min (s.ls.table.maxSpeed p) (windCapOf s p)) (min (derateTerm s) (deadheadCap s p))

/-- The target of pump p: the lower of its commanded speed and its effective cap (R105). -/
def pumpTarget (s : State) (p : Fin 16) : Nat := min s.wu.commanded[p] (effectiveCap s p)

/-- The falling rate of pump p: its trip rate in fault wind-down, its down rate otherwise (R107). -/
def fallingRate (s : State) (p : Nat) : Nat :=
  if s.sq.state = .winddown ∧ s.sq.kind = .fault then s.ls.table.tripRate p else s.ls.table.downRate p

/-- One ramp step from an output toward a target (R106). -/
def rampStep (output target up down : Nat) : Nat :=
  if output < target then min target (output + up)
  else if target < output then max target (output - down)
  else output

/-- The output speed of pump p after a field period's ramp (R106). -/
def rampedOutput (s : State) (p : Fin 16) : Nat :=
  rampStep s.wu.output[p] (pumpTarget s p) (s.ls.table.upRate p) (fallingRate s p)

/-- Steps 1 and 2 of a field period: targets worked out and outputs stepped (R108). -/
def rampPumps (s : State) : State := s.setWu { s.wu with output := tabulate (rampedOutput s) }

/-- The deferred valves that still have a blocking pump. -/
def stillBlocked (s : State) : BitVec 192 := bitsOf 192 (fun v => s.wu.deferred.getLsbD v && hasBlocking s v)

/-- Step 3 of a field period: every deferred valve without a blocking pump is applied closed (R98). -/
def applyDeferred (s : State) : State :=
  s.setWu { s.wu with
    applied := s.wu.applied &&& ~~~ (s.wu.deferred &&& ~~~ stillBlocked s)
    deferred := s.wu.deferred &&& stillBlocked s }

/-- Steps 4 and 5 of a field period: the field frame composed and sent, and the frame count raised (R108, R113). -/
def sendFieldFrame (s : State) : State :=
  s.setWu { s.wu with
    link := .frame (FieldFrame.compose s.wu.frameCount s.wu.applied s.wu.output)
    frameCount := s.wu.frameCount + 1 }

/-- The water unit's field period (R108). -/
def waterPeriod (s : State) : State := sendFieldFrame (applyDeferred (rampPumps s))

/-- Every output speed is 0 and every valve is applied closed (R25). -/
def waterAtRest (s : State) : Bool :=
  decide (s.wu.applied = 0) && (List.finRange 16).all (fun p => decide (s.wu.output[p] = 0))

end Sys2Proof.Machine
end

