-- ==== Sys2Proof/Machine/Sequencer.lean ====
section
/-! DEFINITION. The Show Sequencer's states (chapter 1): entry to RUNNING, holds, faults, wind-down and its completion, priming, and the advance a frame period brings. -/

namespace Sys2Proof.Machine

/-! ## Small tests and updates -/

/-- The show is in one of the five states in which records are fetched and decoded and from which a show can be wound down
(sections 1.1 and 1.8). -/
def ShowState.live : ShowState → Bool
  | .priming | .armed | .running | .starved | .held => true
  | .idle | .winddown | .tripped => false

/-- The state with its show state replaced. -/
def setShow (x : ShowState) (s : State) : State := s.setSq { s.sq with state := x }

/-- The music is no longer due: final is set and every published frame has been fetched (section 1.3). -/
def musicOver (s : State) : Bool := s.fu.final && decide (s.fu.audioFetch = s.fu.audioMark)

/-- The leads, lags and starve limit in frames: floor(ms × rate / 1000) (R3). -/
def framesOf (rate : Nat) (ms : Nat) : Nat := ms * rate / 1000

/-- Frames per second of a show rate. -/
def Rate.perSecond : Rate → Nat
  | .r32000 => 32000
  | .r44100 => 44100
  | .r48000 => 48000

/-! ## Entry to RUNNING (R6) -/

/-- Entry to RUNNING from PRIMING, ARMED or HELD, diverted to HELD for INTERLOCK while a HOLD entry is matched (R6). -/
def enterRunning (s : State) : State :=
  if anyMatched s .hold then s.setSq { s.sq with state := .held, holdInterlock := true }
  else setShow .running s

/-! ## Holds (R13 to R18) -/

/-- The starve count a hold leaves: dropped, that is 0, when the show is taken from STARVED (R11, R13; DEDUCED, log entry
11), and as it stands otherwise. -/
def Sequencer.countWhenHeld (x : Sequencer) : Nat := if x.state = .starved then 0 else x.starveCount

/-- HOST added and the show held, its hold-pending mode cleared (R14, R15). -/
def holdForHost (s : State) : State :=
  s.setSq { s.sq with
    state := .held, holdHost := true, holdPending := .clear, starveCount := s.sq.countWhenHeld }

/-- A HOLD entry becomes matched (R18). -/
def holdEntryMatched (s : State) : State :=
  match s.sq.state with
  | .running | .starved | .held =>
    s.setSq { s.sq with state := .held, holdInterlock := true, starveCount := s.sq.countWhenHeld }
  | .idle | .priming | .armed | .winddown | .tripped => s

/-- No HOLD entry remains matched (R18). -/
def noHoldEntryMatched (s : State) : State :=
  match s.sq.state with
  | .held =>
    if s.sq.holdHost then s.setSq { s.sq with holdInterlock := false }
    else s.setSq { s.sq with holdInterlock := false, state := .running }
  | .idle | .priming | .armed | .running | .starved | .winddown | .tripped => s

/-! ## Wind-down (R23, R24) -/

/-- The sequencer's own part of wind-down entry (R23). -/
def Sequencer.windDown (x : Sequencer) (kind : WinddownKind) : Sequencer :=
  { x with
    state := .winddown
    kind := kind
    holdHost := false
    holdInterlock := false
    holdPending := .clear
    starveCount := 0
    discardedCount := saturate16 x.discardedCount x.table.length
    table := []
    runDivided := false
    colourTaken := false }

/-- Entry to wind-down of a kind, as one event (R23, R110, R146, R147). -/
def windDown (kind : WinddownKind) (s : State) : State :=
  lightWinddown kind (waterWinddown (s.setSq (s.sq.windDown kind)))

/-! ## Faults (R21, R22) -/

/-- The fault record filled by the first fault of a show (R21). -/
def fillRecord (cause : FaultCause) (s : State) : State :=
  s.setSq { s.sq with faultRecord := { first := some cause, position := s.sq.position, secondary := 0 } }

/-- A later fault counted (R21). -/
def countSecondary (s : State) : State :=
  s.setSq { s.sq with
    faultRecord := { s.sq.faultRecord with secondary := saturate8 s.sq.faultRecord.secondary } }

/-- A fault taken, according to the show state (R22, R24). -/
def takeFault (cause : FaultCause) (s : State) : State :=
  match s.sq.state with
  | .idle => raise .fault (setShow .tripped (fillRecord cause s))
  | .priming | .armed | .running | .starved | .held => raise .fault (windDown .fault (fillRecord cause s))
  | .winddown =>
    match s.sq.kind with
    | .normal =>
      let f := fillRecord cause s
      raise .fault (lightConversion (f.setSq { f.sq with kind := .fault }))
    | .fault => countSecondary s
  | .tripped => countSecondary s

/-! ## Wind-down completion (R25) -/

/-- A fetch burst in flight made void (R39). -/
def Port.voided : Port → Port
  | .free => .free
  | .processor t => .processor t
  | .fetch b => .fetch { b with void := true }

/-- Any fetch burst in flight made void (R39). -/
def voidBurst (s : State) : State := s.setPu { s.pu with port := s.pu.port.voided }

/-- The four conditions of R25 hold together. -/
def winddownDone (s : State) : Bool :=
  decide (s.sq.state = .winddown) && waterAtRest s && lightsFinished s && s.sq.colourTaken

/-- The show state that follows a wind-down of a kind (R25). -/
def WinddownKind.after : WinddownKind → ShowState
  | .normal => .idle
  | .fault => .tripped

/-- Completion of wind-down: FIFO and cue buffer emptied, head marker cleared, burst in flight void, frame clock stopped
with its lines low, and the show in IDLE or TRIPPED (R25, R39, R50, R90). -/
def completeWinddown (s : State) : State :=
  let a := s.setAu { s.au with fifo := [], clock := none, lines := .heldLow }
  let f := a.setFu { a.fu with cueBuffer := [] }
  voidBurst (f.setSq { f.sq with headAccepted := false, state := f.sq.kind.after })

/-- The completion test at the end of a field or colour period (R25). -/
def winddownTest (s : State) : State := if winddownDone s then completeWinddown s else s

/-! ## Priming (R4) -/

/-- Priming can complete: 512 frames are in the FIFO, or the music is no longer due (R4). -/
def primed (s : State) : Bool := decide (Config.primingLevel ≤ s.au.fifo.length) || musicOver s

/-- The priming test: in PRIMING, once primed, the show enters RUNNING or ARMED by its sync mode (R4). -/
def primingTest (s : State) : State :=
  match s.sq.state with
  | .priming =>
    if primed s then
      match s.sq.sync with
      | .immediate => enterRunning s
      | .wait => setShow .armed s
    else s
  | .idle | .armed | .running | .starved | .held | .winddown | .tripped => s

/-! ## What a frame period reports, and the advance it brings (R7 to R10, R73, R76 to R78) -/

/-- The outcomes of a frame period reported to the sequencer (R73). -/
inductive PeriodOutcome where
  | frameTaken | empty | drainedSilence | silentPeriod
  deriving DecidableEq, Repr

/-- The resume test of a STARVED show (R10, R77). -/
def resumeTest (s : State) : Bool := decide (Config.resumeLevel ≤ s.au.fifo.length) || musicOver s

/-- The outcome of a frame period that takes a frame if the FIFO holds one (R76). -/
def playOutcome (s : State) : PeriodOutcome :=
  if !s.au.fifo.isEmpty then .frameTaken
  else if musicOver s then .drainedSilence
  else .empty

/-- The outcome of a frame period, from the show state and the FIFO (R76, R77, R78). -/
def periodOutcome (s : State) : PeriodOutcome :=
  match s.sq.state with
  | .running => playOutcome s
  | .starved => if resumeTest s then playOutcome s else .empty
  | .idle | .priming | .armed | .held | .winddown | .tripped => .silentPeriod

/-- A frame period taken now brings an advance: the frame clock runs, the outcome advances a RUNNING show or resumes a STARVED
one, and the position can rise (R7, R8, R10, R12). -/
def periodAdvances (s : State) : Bool :=
  s.au.clock.isSome && decide (s.sq.position ≠ Config.positionMax) &&
  match periodOutcome s with
  | .frameTaken | .drainedSilence => true
  | .empty | .silentPeriod => false

/-- An advance waits to be taken: the next command in the queue is a frame period, or one that resumes a STARVED show, and it
brings an advance. -/
def advanceWaits (s : State) : Bool :=
  match s.pending.head? with
  | some .framePeriod => periodAdvances s
  | some .starvedResume => decide (s.sq.state = .starved) && periodAdvances s
  | _ => false

end Sys2Proof.Machine
end

