-- ==== Sys2Proof/Machine/Guard.lean ====
section
/-! DEFINITION. The Guard Unit (chapter 6): interlock evaluations and their effects, unlatching, debouncing and the wind
band. -/

namespace Sys2Proof.Machine

/-! ## Effects of evaluations (R126, R127) -/

/-- The transition of entry e to matched: INTERLOCK raised and the action handed on; DERATE and DARK are read from the
matched set and hand no event (R126 to R130). -/
def handTransition (e : Fin 8) (s : State) : State :=
  let r := raise .interlock s
  match InterlockAction.ofCode (s.ls.table.entryAction e) with
  | some .hold => holdEntryMatched r
  | some .trip => takeFault (.interlockTrip e) r
  | some .derate | some .dark | none => r

/-- The transitions of a set of entries, in ascending order of entry index (R126). -/
def handTransitions (entries : Byte) (s : State) : State :=
  (List.finRange 8).foldl (fun (t : State) (e : Fin 8) => if entries.getLsbD e then handTransition e t else t) s

/-- The event that no HOLD entry remains matched, handed when one stood matched before (R127). -/
def handHoldEnd (before : Bool) (s : State) : State :=
  if before && !anyMatched s .hold then noHoldEntryMatched s else s

/-- The guard unit's sets replaced, the entries in `moved` handed on as transitions, and the end of a hold handed on. -/
def takeSets (matched latched moved : Byte) (s : State) : State :=
  handHoldEnd (anyMatched s .hold) (handTransitions moved (s.setGu { s.gu with matched := matched, latched := latched }))

/-! ## Evaluations (R123, R124, R125) -/

/-- The entries whose pattern holds. -/
def holdingSet (s : State) (edge : Option (Fin 16 × Bool)) : Byte := bitsOf 8 (entryHolds s edge)

/-- The latching entries. -/
def latchingSet (s : State) : Byte := bitsOf 8 s.ls.table.latching

/-- The evaluation at an edge event: a latching entry once matched stays matched, any other is matched exactly while its
pattern holds (R123). -/
def evaluateEdge (input : Fin 16) (rising : Bool) (s : State) : State :=
  let holding := holdingSet s (some (input, rising))
  let latching := latchingSet s
  let matched := holding ||| (s.gu.matched &&& latching)
  let moved := holding &&& ~~~ s.gu.matched
  takeSets matched (s.gu.latched ||| (moved &&& latching)) moved s

/-- The levels evaluation: both sets emptied, then every entry evaluated with no edge, and each one matched makes a
transition (R124). -/
def evaluateLevels (s : State) : State :=
  let holding := holdingSet s none
  takeSets holding (holding &&& latchingSet s) holding s

/-- The first step of RELEASE_INTERLOCKS: every latched entry whose pattern does not hold with no edge leaves both sets
(R125). -/
def unlatch (s : State) : State :=
  let gone := s.gu.latched &&& ~~~ holdingSet s none
  takeSets (s.gu.matched &&& ~~~ gone) (s.gu.latched &&& ~~~ gone) 0 s

/-! ## Debouncing (R119, R120) -/

/-- A change of an input's raw level: the debounce timer starts or restarts while it differs from the debounced level, and
stops when it is equal again (R119). -/
def takeRawLevel (input : Fin 16) (high : Bool) (s : State) : State :=
  s.setGu { s.gu with
    raw := bitPut s.gu.raw input high
    timers := s.gu.timers.set input.val
      (if high = s.gu.debounced.getLsbD input then none else some s.ls.debounce) input.isLt }

/-- The expiry of an input's debounce timer: the debounced level takes the raw level, and a change is an edge event (R120). -/
def expireDebounce (input : Fin 16) (s : State) : State :=
  let high := s.gu.raw.getLsbD input
  let stopped := s.setGu { s.gu with timers := s.gu.timers.set input.val none input.isLt }
  if high = s.gu.debounced.getLsbD input then stopped
  else evaluateEdge input high (stopped.setGu { stopped.gu with debounced := bitPut s.gu.debounced input high })

/-! ## Wind (R131 to R133) -/

/-- The highest band above the present one whose up threshold the count reaches (R132). -/
def raisedBand (t : LimitTable) (band : Fin 4) (count : Nat) : Option (Fin 4) :=
  ([3, 2, 1] : List (Fin 4)).find? (fun b => decide (band < b ∧ t.windUp b ≤ count))

/-- The band after an expiry, for a VALID table (R132). -/
def nextBand (t : LimitTable) (band : Fin 4) (count : Nat) : Fin 4 :=
  match raisedBand t band count with
  | some b => b
  | none => if 0 < band ∧ count < t.windDown band then band - 1 else band

/-- The band an expiry sets: 3 while the table is not VALID (R132). -/
def bandAtExpiry (s : State) : Fin 4 :=
  if s.ls.valid then nextBand s.ls.table s.gu.band s.gu.pulses.toNat else 3

/-- A wind gate expiry: the count recorded, the band worked out, the count cleared and the next gate started; a change of
band raises WIND (R132). -/
def expireGate (s : State) : State :=
  let band := bandAtExpiry s
  let t := s.setGu { s.gu with
    lastWind := s.gu.pulses, band := band, pulses := 0, gate := some s.ls.gate }
  if band = s.gu.band then t else raise .wind t

end Sys2Proof.Machine
end

