-- ==== Sys2Proof/Machine/Cues.lean ====
section
/-! DEFINITION. Cue records and the release table (chapter 3): record fields, expansion, due positions, insertion, the
examination of the head record, and the releases of an advance. -/

namespace Sys2Proof.Machine

/-! ## Record fields (section 11.1) -/

/-- The record's sequence number. -/
def CueRecord.sequence (r : CueRecord) : Byte := r.word0.extractLsb' 0 8
/-- The record's kind. -/
def CueRecord.kind (r : CueRecord) : Nat := (r.word0.extractLsb' 8 4).toNat
/-- The record's NOTIFY flag. -/
def CueRecord.notify (r : CueRecord) : Bool := r.word0.getLsbD 12
/-- The record's target. -/
def CueRecord.target (r : CueRecord) : Half := r.word0.extractLsb' 16 16
/-- The record's cue time. -/
def CueRecord.time (r : CueRecord) : Word := r.word1
/-- A LIGHT record's colour. -/
def CueRecord.colour (r : CueRecord) : Colour := colourOfWord r.word2
/-- A LIGHT record's fade. -/
def CueRecord.fade (r : CueRecord) : BitVec 10 := r.word3.extractLsb' 0 10
/-- A LIGHT record's group count. -/
def CueRecord.groupCount (r : CueRecord) : Nat := (r.word3.extractLsb' 16 10).toNat

/-! ## Validation and expansion (R48, R49) -/

/-- The actions of a VALVES record, one per mask bit in ascending order; none for a cue error. -/
def CueRecord.valveActions (r : CueRecord) : Option (List Action) :=
  if r.target.toNat ≤ 5 ∧ r.word2 ≠ 0 then
    some (((List.range 32).filter r.word2.getLsbD).map
      (fun i => .valve (Fin.ofNat 192 (32 * r.target.toNat + i)) (r.word3.getLsbD i)))
  else none

/-- The action of a PUMP record; none for a cue error. -/
def CueRecord.pumpActions (r : CueRecord) : Option (List Action) :=
  if r.target.toNat ≤ 15 ∧ r.word2.toNat ≤ 1000 then some [.pump (Fin.ofNat 16 r.target.toNat) r.word2.toNat]
  else none

/-- The actions of a LIGHT record, one per group in ascending order; none for a cue error. -/
def CueRecord.lightActions (r : CueRecord) : Option (List Action) :=
  if r.target.toNat ≤ 63 ∧ 1 ≤ r.groupCount ∧ r.target.toNat + r.groupCount ≤ 64 then
    some ((List.range r.groupCount).map
      (fun k => .light (Fin.ofNat 64 (r.target.toNat + k)) r.colour r.fade))
  else none

/-- The action of a FOLLOW record; none for a cue error. -/
def CueRecord.followActions (r : CueRecord) : Option (List Action) :=
  if r.target.toNat ≤ 63 ∧ r.word2.toNat ≤ 3 then
    some [.follow (Fin.ofNat 64 r.target.toNat) (some (Fin.ofNat 4 r.word2.toNat))]
  else if r.target.toNat ≤ 63 ∧ r.word2.toNat = 255 then some [.follow (Fin.ofNat 64 r.target.toNat) none]
  else none

/-- The actions a record expands into, in ascending channel order (R48); none when the record is a cue error (R49). -/
def CueRecord.actions (r : CueRecord) : Option (List Action) :=
  match r.kind with
  | 1 => r.valveActions
  | 2 => r.pumpActions
  | 3 => r.lightActions
  | 4 => r.followActions
  | 5 => some [.mark r.target r.notify]
  | 6 => some [.endShow]
  | _ => none

/-! ## Due positions (R55, R56) -/

/-- A cue time less a lead, held at 0. -/
def dueAfterLead (t : Word) (lead : Nat) : Word := BitVec.ofNat 32 (t.toNat - lead)

/-- A cue time plus a lag, held at 4,294,967,295. -/
def dueAfterLag (t : Word) (lag : Nat) : Word := BitVec.ofNat 32 (min (t.toNat + lag) Config.positionMax.toNat)

/-- The due position of an action of a record with cue time t (R55, R56). -/
def dueOf (x : Sequencer) (t : Word) : Action → Word
  | .valve v _ => dueAfterLead t x.valveLeads[v]
  | .pump p _ => dueAfterLead t x.pumpLeads[p]
  | .light g _ _ => dueAfterLag t x.lightLags[g]
  | .follow g _ => dueAfterLag t x.lightLags[g]
  | .mark _ _ => t
  | .endShow => t

/-- The release entry of an action, with its late flag judged against the present position (R48, R61). -/
def entryOf (x : Sequencer) (r : CueRecord) (a : Action) : ReleaseEntry :=
  let due := dueOf x r.time a
  { due := due, action := a, source := r.sequence, late := decide (due < x.position) }

/-! ## Insertion (R58, R59, R61) -/

/-- An entry inserted after every entry due at or below its own due and before every other (R58). -/
def insertEntry (e : ReleaseEntry) : List ReleaseEntry → List ReleaseEntry
  | [] => [e]
  | x :: xs => if x.due ≤ e.due then x :: insertEntry e xs else e :: x :: xs

/-- Entries inserted one after another (R58). -/
def insertEntries (es : List ReleaseEntry) (table : List ReleaseEntry) : List ReleaseEntry :=
  es.foldl (fun t e => insertEntry e t) table

/-- The number of late entries in a list (R61, R70). -/
def lateCountOf (es : List ReleaseEntry) : Nat := es.countP (fun e => e.late)

/-- A record's entries inserted as one event, late ones counted (R59, R61). -/
def Sequencer.expand (x : Sequencer) (r : CueRecord) (acts : List Action) : Sequencer :=
  let es := acts.map (entryOf x r)
  { x with table := insertEntries es x.table, lateCount := saturate16 x.lateCount (lateCountOf es) }

/-! ## Examination of the head record (R51, R52, R59) -/

/-- The head record taken from the buffer, its marker cleared (R50). -/
def popHead (rest : List CueRecord) (s : State) : State :=
  let f := s.setFu { s.fu with cueBuffer := rest }
  f.setSq { f.sq with headAccepted := false }

/-- The sequence check failed: the found number recorded, cue fetching blocked and CUE raised (R52). -/
def sequenceBreak (r : CueRecord) (s : State) : State :=
  let f := s.setFu { s.fu with cueBlocked := true }
  raise .cue (f.setSq { f.sq with foundSequence := r.sequence })

/-- The sequence check passed: the found number recorded, the expected one advanced, the head marked accepted (R52). -/
def sequenceMatch (r : CueRecord) (s : State) : State :=
  let f := s.setFu { s.fu with expectedSequence := r.sequence + 1 }
  f.setSq { f.sq with foundSequence := r.sequence, headAccepted := true }

/-- A cue error consumed: counted, CUE raised, and the record gone from the head (R49). -/
def consumeError (rest : List CueRecord) (s : State) : State :=
  let c := s.setSq { s.sq with cueErrorCount := saturate16 s.sq.cueErrorCount 1 }
  popHead rest (raise .cue c)

/-- The release table has room for a number of entries (R59). -/
def hasRoom (s : State) (n : Nat) : Bool := decide (n ≤ Config.releaseCapacity - s.sq.table.length)

/-- A record expanded into the release table and gone from the head (R59). -/
def expandHead (r : CueRecord) (acts : List Action) (rest : List CueRecord) (s : State) : State :=
  popHead rest (s.setSq (s.sq.expand r acts))

/-- What an examination of the head record leaves: the state, and whether the head has left the buffer. -/
structure Settled where
  state : State
  left : Bool

/-- An accepted head record: consumed as a cue error, expanded when it has room, or left waiting (R49, R59). -/
def settleHead (r : CueRecord) (rest : List CueRecord) (s : State) : Settled :=
  match r.actions with
  | none => { state := consumeError rest s, left := true }
  | some acts =>
    if hasRoom s acts.length then { state := expandHead r acts rest s, left := true } else { state := s, left := false }

/-- One examination of the head record: straight to validation and room when its marker is set, nothing while cue fetching is
blocked, and the sequence check first otherwise (R51, R52). -/
def examineRecord (r : CueRecord) (rest : List CueRecord) (s : State) : Settled :=
  if s.sq.headAccepted then settleHead r rest s
  else if s.fu.cueBlocked then { state := s, left := false }
  else if r.sequence = s.fu.expectedSequence then settleHead r rest (sequenceMatch r s)
  else { state := sequenceBreak r s, left := false }

/-- A run meets an advance: a record is to be examined next, and an advance waits to be taken (R51, R62). -/
def runMeets (rest : List CueRecord) (s : State) : Bool := !rest.isEmpty && !s.fu.cueBlocked && advanceWaits s

/-- One more meeting counted, so that each reads the free value at a number of its own (log entry 20). -/
def countMeeting (s : State) : State := s.setMeetings (s.meetings + 1)

/-- The run divided by the advance it meets: it goes on when that advance has been taken (R51). -/
def divideRun (s : State) : State := s.setSq { s.sq with runDivided := true }

/-- The examination of the head record and of the records that become the head after it: one run, up to a record that stays,
an empty buffer, or an advance that divides it. The list is the cue buffer. Whether an advance that waits is taken before
the run's next record is a free value (R51; log entry 20). -/
def examineRun : List CueRecord → State → State
  | [], s => s
  | r :: rest, s =>
    let e := examineRecord r rest s
    if !e.left then e.state
    else if runMeets rest e.state then
      if Config.advanceDivides e.state.meetings then divideRun (countMeeting e.state)
      else examineRun rest (countMeeting e.state)
    else examineRun rest e.state

/-- The examination of the head, made only in the states of R51. -/
def examineHead (s : State) : State := if s.sq.state.live then examineRun s.fu.cueBuffer s else s

/-! ## Release (R62 to R67) -/

/-- A released MARK entry: the last mark set with the position reached, MARK raised if it notifies (R67). -/
def releaseMark (number : Half) (notify : Bool) (s : State) : State :=
  let m := s.setSq { s.sq with lastMark := some { number := number, position := s.sq.position } }
  if notify then raise .mark m else m

/-- Delivery of a released entry to its block (R63 to R67); an END begins normal wind-down (R20). -/
def deliver (a : Action) (s : State) : State :=
  match a with
  | .valve v true => wantOpen v s
  | .valve v false => wantClose v s
  | .pump p speed => commandPump p speed s
  | .light g colour fade => releaseLight g colour fade s
  | .follow g channel => releaseFollow g channel s
  | .mark number notify => releaseMark number notify s
  | .endShow => windDown .normal s

/-- What the releases of an advance left: the state, whether an END ended them, whether a MARK called for the at-mark hold,
and whether any entry was freed. -/
structure Released where
  state : State
  ended : Bool
  holdCalled : Bool
  freed : Bool

/-- The front entry taken from the table, its source recorded as last released (R62, R70). -/
def takeEntry (e : ReleaseEntry) (rest : List ReleaseEntry) (s : State) : State :=
  s.setSq { s.sq with table := rest, lastReleased := some e.source }

/-- An entry is a MARK. -/
def Action.isMark : Action → Bool
  | .mark _ _ => true
  | .valve _ _ | .pump _ _ | .light _ _ _ | .follow _ _ | .endShow => false

/-- The releases of an advance: the entries due at or below the position, in table order, up to and with an END (R62, R20).
The list is the release table. -/
def releaseDue : List ReleaseEntry → State → Released
  | [], s => { state := s, ended := false, holdCalled := false, freed := false }
  | e :: rest, s =>
    if e.due ≤ s.sq.position then
      let t := deliver e.action (takeEntry e rest s)
      if e.action = .endShow then { state := t, ended := true, holdCalled := false, freed := true }
      else
        let r := releaseDue rest t
        { r with
          holdCalled := r.holdCalled || (e.action.isMark && decide (s.sq.holdPending = .atMark))
          freed := true }
    else { state := s, ended := false, holdCalled := false, freed := false }

/-- A waiting head record tried again once releases have freed an entry (R60). -/
def retryHead (s : State) : State := if s.sq.headAccepted then examineHead s else s

/-- A divided run goes on: its next record is examined at the position as it now stands (R51). -/
def resumeRun (s : State) : State :=
  if s.sq.runDivided then examineHead (s.setSq { s.sq with runDivided := false }) else s

/-- The examination at the end of an advance's releases: the run that the advance divided goes on, or a waiting head is tried
again if an entry was freed (R51, R60). -/
def examineAfter (r : Released) : State :=
  if r.state.sq.runDivided then resumeRun r.state else if r.freed then retryHead r.state else r.state

/-- After the releases of an advance: nothing more if an END ended them, else the head is examined and the at-mark hold called
for is taken (R15, R62). A held show does not advance, so a run left for the next advance goes on at once. -/
def afterReleases (r : Released) : State :=
  if r.ended then r.state
  else if r.holdCalled then resumeRun (holdForHost (examineAfter r))
  else examineAfter r

/-- The position advance of a RUNNING show, or the POSITION_LIMIT fault in its place (R7, R8). -/
def advance (s : State) : State :=
  if s.sq.position = Config.positionMax then takeFault .positionLimit s
  else
    let t := s.setSq { s.sq with position := s.sq.position + 1 }
    afterReleases (releaseDue t.sq.table t)

end Sys2Proof.Machine
end

