-- ==== Sys2Proof/Machine/Fetch.lean ====
section
/-! DEFINITION. The Fetch Unit (chapter 2): published slots, mark writes, the choice of a burst, its completion, the space
triggers and the fetch request. -/

namespace Sys2Proof.Machine

/-! ## Published and free slots (section 2.1, R27) -/

/-- The published count of the cue ring. -/
def cuePublished (x : FetchUnit) : Nat := (x.cueMark - x.cueFetch).val
/-- The published count of the audio ring. -/
def audioPublished (x : FetchUnit) : Nat := (x.audioMark - x.audioFetch).val
/-- The free count of the cue ring. -/
def cueFree (x : FetchUnit) : Nat := Config.cueSlots - 1 - cuePublished x
/-- The free count of the audio ring. -/
def audioFree (x : FetchUnit) : Nat := Config.audioSlots - 1 - audioPublished x

/-- A cue slot is published (R27). -/
def cueSlotPublished (x : FetchUnit) (slot : Fin Config.cueSlots) : Bool :=
  decide ((slot - x.cueFetch).val < cuePublished x)

/-- An audio slot is published (R27). -/
def audioSlotPublished (x : FetchUnit) (slot : Fin Config.audioSlots) : Bool :=
  decide ((slot - x.audioFetch).val < audioPublished x)

/-- The word at a ring offset is protected: it lies in a published slot (R42). -/
def protectedOffset (x : FetchUnit) (offset : Nat) : Bool :=
  if Config.audioRingBase ≤ offset then
    audioSlotPublished x (Fin.ofNat Config.audioSlots ((offset - Config.audioRingBase) / 8))
  else if Config.cueRingBase ≤ offset then
    cueSlotPublished x (Fin.ofNat Config.cueSlots ((offset - Config.cueRingBase) / 16))
  else false

/-! ## Mark writes (R29 to R31) -/

/-- A mark fault (R31). -/
def markFault (s : State) : State := raise .cue (s.setFu { s.fu with markFault := true })

/-- The mark a CUE_MARK write proposes, if it is accepted (R29). The third condition of R29 holds of every slot index. -/
def acceptedCueMark (x : FetchUnit) (value : Word) : Option (Fin Config.cueSlots) :=
  if h : value.toNat < Config.cueSlots then
    let v : Fin Config.cueSlots := ⟨value.toNat, h⟩
    if cuePublished x ≤ (v - x.cueFetch).val then some v else none
  else none

/-- A full write to CUE_MARK (R29). -/
def writeCueMark (value : Word) (s : State) : State :=
  match acceptedCueMark s.fu value with
  | some v => s.setFu { s.fu with cueMark := v }
  | none => markFault s

/-- The mark an AUDIO_MARK write proposes, if it is accepted (R30): bits 16 to 0 are the mark, bits 30 to 17 must be 0. -/
def acceptedAudioMark (x : FetchUnit) (value : Word) : Option (Fin Config.audioSlots) :=
  let mark := (value.extractLsb' 0 17).toNat
  if h : mark < Config.audioSlots then
    let v : Fin Config.audioSlots := ⟨mark, h⟩
    if x.final = false ∧ value.extractLsb' 17 14 = 0 ∧ audioPublished x ≤ (v - x.audioFetch).val then some v
    else none
  else none

/-- A full write to AUDIO_MARK: the mark moved, final set if bit 31 asks, and the priming test made (R30, R4). -/
def writeAudioMark (value : Word) (s : State) : State :=
  match acceptedAudioMark s.fu value with
  | some v => primingTest (s.setFu { s.fu with audioMark := v, final := value.getLsbD 31 })
  | none => markFault s

/-! ## The choice of a burst (R34 to R37) -/

/-- The next audio read carries two frames: the fetch index is even and two frames are published (R36). -/
def readsTwo (x : FetchUnit) : Bool := decide (x.audioFetch.val % 2 = 0) && decide (2 ≤ audioPublished x)

/-- The number of frames the next audio read carries (R36). -/
def readFrames (x : FetchUnit) : Nat := if readsTwo x then 2 else 1

/-- An audio read in R35's first place: the FIFO is low and a frame is published. -/
def urgentRead (s : State) : Bool :=
  decide (s.au.fifo.length < Config.lowLevel) && decide (1 ≤ audioPublished s.fu)

/-- A cue burst, R35's second place. -/
def cuePossible (s : State) : Bool :=
  decide (s.fu.cueBuffer.length < Config.cueBufferCapacity) && decide (1 ≤ cuePublished s.fu) && !s.fu.cueBlocked

/-- An audio read in R35's third place: a frame is published and the FIFO has room for the whole read. -/
def roomyRead (s : State) : Bool :=
  decide (1 ≤ audioPublished s.fu) && decide (s.au.fifo.length + readFrames s.fu ≤ Config.fifoCapacity)

/-- The audio read the fetch unit would make (R36). -/
def audioRead (s : State) : BurstKind := .audio s.fu.audioFetch (readsTwo s.fu)

/-- The burst chosen at a grant: the first possible of R35's three places. -/
def chooseBurst (s : State) : Option BurstKind :=
  if urgentRead s then some (audioRead s)
  else if cuePossible s then some (.cue s.fu.cueFetch)
  else if roomyRead s then some (audioRead s)
  else none

/-- The port is granted to a fetch burst. -/
def Port.fetching : Port → Bool
  | .fetch _ => true
  | .free | .processor _ => false

/-- The fetch request stands: out of reset, in a state that fetches, with no burst in flight, and a burst is possible
(R34). -/
def wantsFetch (s : State) : Bool :=
  !s.inReset && s.sq.state.live && !s.pu.port.fetching && (chooseBurst s).isSome

/-! ## Completion of a burst (R38, R39, R44) -/

/-- Whether a rise of a free count crosses a trigger (R44). -/
def crosses (before after trigger : Nat) : Bool := decide (before < trigger ∧ trigger ≤ after)

/-- The window base's first word address: 1 MiB is 2^18 words (R167). -/
def windowWord (base : BitVec 6) (offset : Nat) : WordAddr := base ++ BitVec.ofNat 18 (offset / 4)

/-- The four words of a cue slot, as memory holds them (R37). -/
def readCueSlot (s : State) (slot : Fin Config.cueSlots) : CueRecord :=
  let word := fun k => Memory.readWord s.mem (windowWord s.pu.base (Config.cueRingBase + 16 * slot.val + 4 * k))
  { word0 := word 0, word1 := word 1, word2 := word 2, word3 := word 3 }

/-- The two words of an audio slot, as memory holds them (R36). -/
def readAudioSlot (s : State) (slot : Fin Config.audioSlots) : Frame :=
  let word := fun k => Memory.readWord s.mem (windowWord s.pu.base (Config.audioRingBase + 8 * slot.val + 4 * k))
  { word0 := word 0, word1 := word 1 }

/-- SPACE raised if a free count crossed its trigger (R44). -/
def raiseSpace (crossed : Bool) (s : State) : State := if crossed then raise .space s else s

/-- A completed cue burst: the fetch index moved on by one, the record put at the tail of the cue buffer, SPACE raised at a
crossing, and the record examined if it became the head (R38, R51). -/
def completeCue (slot : Fin Config.cueSlots) (s : State) : State :=
  let record := readCueSlot s slot
  let t := s.setFu { s.fu with cueFetch := s.fu.cueFetch + 1, cueBuffer := s.fu.cueBuffer ++ [record] }
  let u := raiseSpace (crosses (cueFree s.fu) (cueFree t.fu) s.fu.cueTrigger) t
  if s.fu.cueBuffer.isEmpty then examineHead u else u

/-- The frames an audio read carries, the lower slot first (R38). -/
def framesRead (s : State) (slot : Fin Config.audioSlots) (two : Bool) : List Frame :=
  if two then [readAudioSlot s slot, readAudioSlot s (slot + 1)] else [readAudioSlot s slot]

/-- A completed audio read: the fetch index moved past its frames, the frames put at the tail of the FIFO, SPACE raised at a
crossing, and the priming test made (R38, R4). -/
def completeAudio (slot : Fin Config.audioSlots) (two : Bool) (s : State) : State :=
  let t := s.setFu { s.fu with audioFetch := if two then s.fu.audioFetch + 2 else s.fu.audioFetch + 1 }
  let u := t.setAu { t.au with fifo := t.au.fifo ++ framesRead s slot two }
  primingTest (raiseSpace (crosses (audioFree s.fu) (audioFree u.fu) s.fu.audioTrigger) u)

/-- The completion of the burst on the port: the port freed, and nothing else if the burst is void (R38, R39). -/
def completeBurst (b : Burst) (s : State) : State :=
  let t := s.setPu { s.pu with port := .free }
  if b.void then t
  else
    match b.kind with
    | .cue slot => completeCue slot t
    | .audio slot two => completeAudio slot two t

/-! ## RING_RESET (R46) -/

/-- An accepted RING_RESET. -/
def resetRings (s : State) : State :=
  let f := s.setFu { s.fu with
    cueMark := 0
    cueFetch := 0
    audioMark := 0
    audioFetch := 0
    final := false
    markFault := false
    cueBlocked := false
    cueBuffer := []
    expectedSequence := 0 }
  voidBurst (f.setSq { f.sq with headAccepted := false })

end Sys2Proof.Machine
end

