-- ==== Sys2Proof/Machine/Operands.lean ====
section
/-! DEFINITION. What the part decodes from the bus: window offsets and regions (R167, R169), the show command codes and the
limit command words (R187), and the attention sets (section 11.2). -/

namespace Sys2Proof.Machine

/-! ## Window, offsets and regions -/

/-- The address lies in the window of a base (R167). -/
def inWindow (base : BitVec 6) (a : WordAddr) : Bool := decide (a.extractLsb' 18 6 = base)

/-- The window offset of an address in the window, in bytes (R167). -/
def windowOffset (a : WordAddr) : Nat := 4 * (a.extractLsb' 0 18).toNat

/-- The regions of the window, and the rest of memory (00_scope.md section 2, R169). -/
inductive Region where
  | outside | commandPage | statusPage | limitView | staging | ordinary | cueRing | audioRing
  deriving DecidableEq, Repr

/-- The region of a window offset. -/
def regionOfOffset (offset : Nat) : Region :=
  if offset < Config.statusBase then .commandPage
  else if offset < Config.limitViewBase then .statusPage
  else if offset < Config.stagingBase then .limitView
  else if offset < Config.ordinaryBase then .staging
  else if offset < Config.cueRingBase then .ordinary
  else if offset < Config.audioRingBase then .cueRing
  else .audioRing

/-- The region of an address, for a window base (R169). -/
def regionOf (base : BitVec 6) (a : WordAddr) : Region :=
  if inWindow base a then regionOfOffset (windowOffset a) else .outside

/-! ## Show command codes (R187) -/

/-- The show commands. -/
inductive ShowCommand where
  | start | stop | hold | step | proceed | ringReset | ambient | cueResync | releaseInterlocks | mute | monitor
  | spaceTriggers | clearCounts
  deriving DecidableEq, Repr

/-- The code of a show command. -/
def ShowCommand.code : ShowCommand → Word
  | .start => 0x01
  | .stop => 0x02
  | .hold => 0x03
  | .step => 0x04
  | .proceed => 0x05
  | .ringReset => 0x06
  | .ambient => 0x07
  | .cueResync => 0x08
  | .releaseInterlocks => 0x09
  | .mute => 0x0A
  | .monitor => 0x0B
  | .spaceTriggers => 0x0C
  | .clearCounts => 0x0D

/-- The show command a code names, if any. -/
def showCommandOf (code : Word) : Option ShowCommand :=
  match code.toNat with
  | 1 => some .start
  | 2 => some .stop
  | 3 => some .hold
  | 4 => some .step
  | 5 => some .proceed
  | 6 => some .ringReset
  | 7 => some .ambient
  | 8 => some .cueResync
  | 9 => some .releaseInterlocks
  | 10 => some .mute
  | 11 => some .monitor
  | 12 => some .spaceTriggers
  | 13 => some .clearCounts
  | _ => none

/-! ## Limit command words (R187) -/

/-- The limit commands. -/
inductive LimitCommandKind where
  | programRow (row : Fin 32)
  | eraseAll
  | setLock
  | clearStaging
  deriving DecidableEq, Repr

/-- The code byte of a LIMIT_CMD word. -/
def limitCode (w : Word) : Byte := w.extractLsb' 0 8

/-- The row field byte of a LIMIT_CMD word. -/
def limitRowField (w : Word) : Byte := w.extractLsb' 8 8

/-- The limit command a word carries, if it passes test 2 of R158. -/
def limitCommandOf (w : Word) : Option LimitCommandKind :=
  match (limitCode w).toNat with
  | 1 => if h : (limitRowField w).toNat < 32 then some (.programRow ⟨(limitRowField w).toNat, h⟩) else none
  | 2 => some .eraseAll
  | 3 => some .setLock
  | 4 => some .clearStaging
  | _ => none

/-- A LIMIT_CMD word from its ignored bits, row field and code. -/
def limitWord (upper : Half) (rowField code : Byte) : Word := upper ++ rowField ++ code

/-! ## Attention sets (section 11.2) -/

/-- The causes a word names: bits 31 to 9 are ignored. -/
def causeSet (w : Word) : BitVec 9 := w.extractLsb' 0 9

end Sys2Proof.Machine
end

