-- ==== Sys2Proof/Machine/LimitOps.lean ====
section
/-! DEFINITION. The Limit Store's operations (chapter 8): staging, the limit commands, completions, and what a reset leaves
of an operation it cuts short. -/

namespace Sys2Proof.Machine

/-! ## Staging (R157, R159) -/

/-- A PROGRAM_ROW is in progress. -/
def LimitStore.programming (x : LimitStore) : Bool :=
  match x.operation with
  | some o =>
    match o.name with
    | .programRow _ => true
    | .setLock | .eraseAll => false
  | none => false

/-- A full write to a staging word: copied and marked, but for the time a PROGRAM_ROW is in progress (R157, R163). -/
def captureStaging (i : Fin 16) (value : Word) (s : State) : State :=
  if s.ls.programming then s
  else s.setLs { s.ls with staging := s.ls.staging.set i.val value i.isLt, marks := bitInsert s.ls.marks i.val }

/-- The staging buffer with every word 0 and every mark clear (R159). -/
def LimitStore.clearStaging (x : LimitStore) : LimitStore :=
  { x with staging := Vector.replicate 16 0, marks := 0 }

/-! ## Limit commands (R158 to R160) -/

/-- Tests 5 and 6 of R158, which only PROGRAM_ROW has. -/
def LimitStore.rowOutcome (x : LimitStore) : LimitOutcome :=
  if x.marks ≠ 0xFFFF then .refusedStaging else if x.locked then .refusedLocked else .accepted

/-- The tests of R158 that follow test 2, for a lawful command. -/
def lawfulOutcome (c : LimitCommandKind) (s : State) : LimitOutcome :=
  if s.sq.state ≠ .idle then .refusedState
  else if s.ls.operation.isSome then .refusedBusy
  else
    match c with
    | .programRow _ => s.ls.rowOutcome
    | .eraseAll | .setLock | .clearStaging => .accepted

/-- The outcome of a limit command: the first test of R158 that fails decides it. -/
def limitOutcome (w : Word) (progEn : Bool) (s : State) : LimitOutcome :=
  if !progEn then .refusedProgEn
  else
    match limitCommandOf w with
    | none => .refusedArg
    | some c => lawfulOutcome c s

/-- The limit store with an operation started (R160). -/
def LimitStore.begin (x : LimitStore) (name : OpName) (ms : Nat) : LimitStore :=
  { x with operation := some { name := name, words := x.staging, dueMs := ms } }

/-- The effect of an accepted limit command (R159, R160). -/
def LimitStore.accept (x : LimitStore) (c : LimitCommandKind) : LimitStore :=
  match c with
  | .programRow r => x.begin (.programRow r) Config.shortOperationMs
  | .eraseAll => x.begin .eraseAll Config.eraseOperationMs
  | .setLock => x.begin .setLock Config.shortOperationMs
  | .clearStaging => x.clearStaging

/-- The limit status's record of a command and its outcome (R158, R187). -/
def LimitStore.record (x : LimitStore) (w : Word) (o : LimitOutcome) : LimitStore :=
  { x with lastCommand := some { code := limitCode w, rowField := limitRowField w }, outcome := o }

/-- The limit store after a limit command: its effect if accepted, and the record in any case (R158). -/
def limitStoreAfter (w : Word) (progEn : Bool) (s : State) : LimitStore :=
  let o := limitOutcome w progEn s
  match limitCommandOf w with
  | some c => if o = .accepted then (s.ls.accept c).record w o else s.ls.record w o
  | none => s.ls.record w o

/-- A full write to LIMIT_CMD (R158). -/
def takeLimitCommand (w : Word) (progEn : Bool) (s : State) : State := s.setLs (limitStoreAfter w progEn s)

/-! ## Completions (R161, R162) -/

/-- What every completion does after the operation's own steps: no operation in progress, the result recorded, the table
state recomputed, LIMIT raised, and the guard unit's levels evaluation made (R162). -/
def finishOperation (name : OpName) (result : CompletionResult) (s : State) : State :=
  let done := s.setLs { s.ls with
    operation := none
    lastCompletion := some { result := result, name := name }
    tableState := s.ls.table.state }
  evaluateLevels (raise .limit done)

/-- The name of the operation in progress, if any. -/
def LimitStore.operationName (x : LimitStore) : Option OpName := x.operation.map Operation.name

/-- The row a PROGRAM_ROW leaves: the words fixed at acceptance, or an erased row if the array does not read them back
(R161). -/
def rowLeft (words : Vector Word 16) (arrayHolds : Bool) : Row :=
  if arrayHolds then Row.ofWords words else Row.erased

/-- The result of a PROGRAM_ROW (R161). -/
def rowResult (arrayHolds : Bool) : CompletionResult := if arrayHolds then .done else .verifyFault

/-- The completion of a PROGRAM_ROW, when one is in progress (R161). -/
def completeProgramRow (arrayHolds : Bool) (s : State) : State :=
  match s.ls.operation with
  | some o =>
    match o.name with
    | .programRow r =>
      finishOperation o.name (rowResult arrayHolds)
        (s.setLs { s.ls with table := s.ls.table.setRow r (rowLeft o.words arrayHolds), marks := 0 })
    | .setLock | .eraseAll => s
  | none => s

/-- The completion of a SET_LOCK, when one is in progress (R161). -/
def completeSetLock (s : State) : State :=
  if s.ls.operationName = some .setLock then
    finishOperation .setLock .done (s.setLs { s.ls with locked := true })
  else s

/-- The completion of an ERASE_ALL, when one is in progress (R161). -/
def completeEraseAll (s : State) : State :=
  if s.ls.operationName = some .eraseAll then
    finishOperation .eraseAll .done (s.setLs { s.ls with table := LimitTable.erased, locked := false })
  else s

/-! ## Reset during an operation (R165) -/

/-- The table a reset leaves. -/
def LimitStore.tableAfterReset (x : LimitStore) : LimitTable :=
  match x.operationName with
  | some (.programRow r) => x.table.setRow r Row.erased
  | some .eraseAll => LimitTable.erased
  | some .setLock | none => x.table

/-- The lock cell a reset leaves. -/
def LimitStore.lockedAfterReset (x : LimitStore) : Bool :=
  match x.operationName with
  | some .setLock | some .eraseAll => false
  | some (.programRow _) | none => x.locked

end Sys2Proof.Machine
end

