-- ==== Sys2Proof/Machine/Flags.lean ====
section
/-! DEFINITION. The flags that follow the state: ATTN_N (R186), the cause word (R185), the fetch request and the wait count
it clears (R34, R174), and the grant that is due of a free port (R173). `settle` ends every event. -/

namespace Sys2Proof.Machine

/-- ATTN_N is to be asserted: the pending set and the enable set have a cause in common (R186). -/
def attentionDue (x : ReportUnit) : Bool := decide (x.pending &&& x.enable ≠ 0)

/-- ATTN_N brought up to the sets (R186). -/
def settleAttention (s : State) : State := s.setRu { s.ru with attention := attentionDue s.ru }

/-- The wait count after the request is brought up to the state: 0 when a standing request is withdrawn (R174). -/
def waitAfterRequest (s : State) : Fin 9 := if s.fu.fetchRequest && !wantsFetch s then 0 else s.pu.waitCount

/-- The fetch request brought up to the state (R34, R174). -/
def settleRequest (s : State) : State :=
  (s.setPu { s.pu with waitCount := waitAfterRequest s }).setFu { s.fu with fetchRequest := wantsFetch s }

/-- The arbiter's finding among those waiting at this moment; `contest` is what it makes of both (R173). -/
def claimNow (contest : Claim) (s : State) : Arbiter :=
  match s.pu.waiting, s.fu.fetchRequest with
  | [], false => .idle
  | [], true => .due .fetch
  | _ :: _, false => .due .processor
  | _ :: _, true => .due contest

/-- Everyone a claim speaks of is still waiting; a fetch request may have been withdrawn (R174). -/
def claimStands (s : State) : Claim → Bool
  | .processor => !s.pu.waiting.isEmpty
  | .fetch => s.fu.fetchRequest
  | .both | .together => !s.pu.waiting.isEmpty && s.fu.fetchRequest

/-- The arbiter at the end of an event. A port that the event left free is to be granted to a party waiting at that moment; at
a port that was free, those who arrive are (R173). A grant once due stays due, unless its claim has been withdrawn (R174). -/
def arbitrate (s : State) : Arbiter :=
  match s.pu.port with
  | .processor _ | .fetch _ => .busy
  | .free =>
    match s.pu.arbiter with
    | .busy => claimNow .both s
    | .idle => claimNow .together s
    | .due claim => if claimStands s claim then .due claim else claimNow .both s

/-- The arbiter brought up to those waiting (R173, R174). -/
def settleArbiter (s : State) : State := s.setPu { s.pu with arbiter := arbitrate s }

/-- The end of every event: ATTN_N, the fetch request and the arbiter follow the state it left. -/
def settle (s : State) : State := settleArbiter (settleRequest (settleAttention s))

/-- The answer of a command: the next state, settled. No command of the part ends in anything else. -/
def answer (s : State) : Host.Outcome State Fault Refusal := .next (settle s)

/-- An event that no block takes while RESET_N is asserted (R92, R117, R136, R175). -/
def outOfReset (event : State → State) (s : State) : State := if s.inReset then s else event s

/-- The place of the highest-priority cause in both sets, if any (R185). -/
def topCause (x : ReportUnit) : Option Nat := (List.range 9).find? (fun k => (x.pending &&& x.enable).getLsbD k)

/-- The cause word: the number of the highest-priority pending and enabled cause, 1 to 9, or 0 (R185). -/
def causeNumber (x : ReportUnit) : Nat :=
  match topCause x with
  | some k => k + 1
  | none => 0

/-- The cause a read of the cause word returns leaves the pending set (R185). -/
def dropTopCause (x : ReportUnit) : ReportUnit :=
  match topCause x with
  | some k => { x with pending := bitErase x.pending k }
  | none => x

end Sys2Proof.Machine
end

