-- ==== Sys2Proof/Machine/Report.lean ====
section
/-! DEFINITION. What the processor reads: the words of the status page (R188, section 11.3) and of the limit view (R156). -/

namespace Sys2Proof.Machine

/-- A value placed at a bit of a word. -/
def at_ (bit value : Nat) : Word := BitVec.ofNat 32 value <<< bit

/-- A flag placed at a bit of a word. -/
def flagAt (bit : Nat) (b : Bool) : Word := at_ bit b.toNat

/-! ## Codes (section 11.3) -/

/-- The show state code. -/
def ShowState.code : ShowState → Nat
  | .idle => 0
  | .priming => 1
  | .armed => 2
  | .running => 3
  | .starved => 4
  | .held => 5
  | .winddown => 6
  | .tripped => 7

/-- The wind-down kind bit. -/
def WinddownKind.bit : WinddownKind → Bool
  | .normal => false
  | .fault => true

/-- The hold-pending bit. -/
def HoldPending.bit : HoldPending → Bool
  | .clear => false
  | .atMark => true

/-- The rate code. -/
def Rate.code : Rate → Nat
  | .r32000 => 0
  | .r44100 => 1
  | .r48000 => 2

/-- The first cause field of the fault word, with its entry index and the bit that says the index is present. -/
def faultCauseBits : Option FaultCause → Word
  | none => 0
  | some (.interlockTrip e) => at_ 0 1 ||| at_ 8 e.val ||| flagAt 11 true
  | some .starveLimit => at_ 0 2
  | some .positionLimit => at_ 0 3

/-- The result outcome code. -/
def CommandOutcome.statusCode : CommandOutcome → Nat
  | .none => 0
  | .accepted => 1
  | .refusedState => 2
  | .refusedLimits => 3
  | .refusedArg => 4
  | .partialWrite => 5

/-- The table state code. -/
def TableState.code : TableState → Nat
  | .blank => 0
  | .invalid => 1
  | .valid => 2

/-- The operation code and row, at bits 7 to 4 and 12 to 8. -/
def OpName.bits : OpName → Word
  | .programRow r => at_ 4 1 ||| at_ 8 r.val
  | .setLock => at_ 4 2
  | .eraseAll => at_ 4 3

/-- The limit command outcome code. -/
def LimitOutcome.code : LimitOutcome → Nat
  | .none => 0
  | .accepted => 1
  | .refusedProgEn => 2
  | .refusedArg => 3
  | .refusedState => 4
  | .refusedBusy => 5
  | .refusedStaging => 6
  | .refusedLocked => 7

/-- The completion result code. -/
def CompletionResult.code : CompletionResult → Nat
  | .done => 1
  | .verifyFault => 2

/-! ## Groups of status words -/

/-- Words 0x000 to 0x01C: the show and the result record. -/
def showWord (s : State) (off : Nat) : Word :=
  match off with
  | 0x000 =>
    at_ 0 s.sq.state.code ||| flagAt 4 s.sq.kind.bit ||| flagAt 8 s.sq.holdHost ||| flagAt 9 s.sq.holdInterlock |||
      flagAt 12 s.sq.holdPending.bit ||| at_ 16 s.sq.rate.code
  | 0x004 => s.sq.position
  | 0x008 =>
    match s.sq.lastMark with
    | some m => at_ 0 m.number.toNat ||| flagAt 31 true
    | none => 0
  | 0x00C =>
    match s.sq.lastMark with
    | some m => m.position
    | none => 0
  | 0x010 => faultCauseBits s.sq.faultRecord.first ||| at_ 16 s.sq.faultRecord.secondary.toNat
  | 0x014 => s.sq.faultRecord.position
  | 0x018 => s.ru.code
  | 0x01C => at_ 0 s.ru.outcome.statusCode
  | _ => 0

/-- Words 0x020 to 0x04C: the rings, the release table, the FIFO level and the mute set. -/
def ringWord (s : State) (off : Nat) : Word :=
  match off with
  | 0x020 => at_ 0 s.fu.cueMark.val
  | 0x024 => at_ 0 s.fu.cueFetch.val
  | 0x028 => at_ 0 (cueFree s.fu)
  | 0x02C =>
    at_ 0 s.fu.expectedSequence.toNat ||| at_ 8 s.sq.foundSequence.toNat ||| flagAt 16 s.fu.cueBlocked |||
      flagAt 17 s.fu.markFault
  | 0x030 => at_ 0 s.fu.audioMark.val ||| flagAt 31 s.fu.final
  | 0x034 => at_ 0 s.fu.audioFetch.val
  | 0x038 => at_ 0 (audioFree s.fu)
  | 0x03C => at_ 0 s.au.fifo.length
  | 0x040 => at_ 0 s.sq.table.length ||| at_ 16 (lateCountOf s.sq.table)
  | 0x044 =>
    match s.sq.lastReleased with
    | some q => at_ 0 q.toNat ||| flagAt 8 true
    | none => 0
  | 0x048 => at_ 0 s.au.muteSet.toNat
  | _ => 0

/-- The two words of channel c's monitor, at 0x050 + 8c and 0x054 + 8c. -/
def monitorWord (m : Monitor) (second : Bool) : Word :=
  if second then at_ 0 m.storedPeak.toNat ||| at_ 16 m.storedCount.toNat
  else at_ 0 m.window.toNat ||| at_ 16 m.threshold.toNat

/-- Words 0x070 to 0x07C: the counters. -/
def counterWord (s : State) (off : Nat) : Word :=
  match off with
  | 0x070 => at_ 0 s.pu.refusedCount.toNat ||| at_ 16 s.sq.lateCount.toNat
  | 0x074 => at_ 0 s.sq.discardedCount.toNat ||| at_ 16 s.au.underflowCount.toNat
  | 0x078 => at_ 0 s.sq.cueErrorCount.toNat
  | 0x07C => at_ 0 s.pu.lastRefused.toNat
  | _ => 0

/-- The word of pumps 2k and 2k + 1 of a table of speeds. -/
def speedWord (speeds : Vector Nat 16) (k : Nat) : Word :=
  at_ 0 (speeds[2 * k]?.getD 0) ||| at_ 16 (speeds[2 * k + 1]?.getD 0)

/-- Words 0x120 to 0x144: the guard unit, the limit store and the attention sets. -/
def guardWord (s : State) (off : Nat) : Word :=
  match off with
  | 0x120 => at_ 0 s.gu.debounced.toNat ||| at_ 16 s.gu.matched.toNat ||| at_ 24 s.gu.latched.toNat
  | 0x124 => at_ 0 s.gu.band.val ||| at_ 16 s.gu.lastWind.toNat
  | 0x130 =>
    let operation : Word :=
      match s.ls.operation with
      | some o => o.name.bits
      | none => 0
    at_ 0 s.ls.tableState.code ||| operation ||| at_ 16 s.ls.marks.toNat
  | 0x134 => s.ls.table.revision
  | 0x138 =>
    match s.ls.lastCommand with
    | some c => at_ 0 c.code.toNat ||| at_ 8 c.rowField.toNat ||| at_ 16 s.ls.outcome.code ||| flagAt 31 true
    | none => 0
  | 0x13C =>
    match s.ls.lastCompletion with
    | some c => at_ 0 c.result.code ||| c.name.bits
    | none => 0
  | 0x140 => at_ 0 s.ru.pending.toNat ||| at_ 16 s.ru.enable.toNat
  | 0x144 => at_ 0 (causeNumber s.ru)
  | _ => 0

/-- The status page word at an offset within the page, a multiple of 4 (R188, section 11.3). The word at 0x144 is the cause
word as a read would return it; the removal is the read's own event (R185). -/
def statusWord (s : State) (off : Nat) : Word :=
  if off < 0x020 then showWord s off
  else if off < 0x050 then ringWord s off
  else if off < 0x070 then monitorWord (s.au.monitors[(off - 0x050) / 8]?.getD Monitor.off) (decide (off % 8 = 4))
  else if off < 0x080 then counterWord s off
  else if off < 0x098 then bankOf s.wu.wanted ((off - 0x080) / 4)
  else if off < 0x0A0 then 0
  else if off < 0x0B8 then bankOf s.wu.applied ((off - 0x0A0) / 4)
  else if off < 0x0C0 then 0
  else if off < 0x0D8 then bankOf s.wu.deferred ((off - 0x0C0) / 4)
  else if off < 0x0E0 then 0
  else if off < 0x100 then speedWord s.wu.commanded ((off - 0x0E0) / 4)
  else if off < 0x120 then speedWord s.wu.output ((off - 0x100) / 4)
  else guardWord s off

/-! ## The limit view -/

/-- The lock cell: 0xFF while unlocked, 0x00 while locked (R156). -/
def lockByte (locked : Bool) : Byte := if locked then 0x00 else 0xFF

/-- Byte n of the limit view (R156). While an operation is in progress the table and lock cell still stand as they did
before it. -/
def limitViewByte (x : LimitStore) (n : Nat) : Byte :=
  if n < 2048 then x.table.byte n else if n = 2048 then lockByte x.locked else 0

/-- The limit view word at an offset within the view, a multiple of 4 (R156). -/
def limitViewWord (x : LimitStore) (off : Nat) : Word :=
  wordOfBytes (limitViewByte x off) (limitViewByte x (off + 1)) (limitViewByte x (off + 2)) (limitViewByte x (off + 3))

/-- The part's answer to a read of one word, if it answers it: in the status page and the limit view, out of reset (R170,
R175). -/
def answeredWord (s : State) (a : WordAddr) : Option Word :=
  if s.inReset then none
  else
    match regionOf s.pu.base a with
    | .statusPage => some (statusWord s (windowOffset a - Config.statusBase))
    | .limitView => some (limitViewWord s.ls (windowOffset a - Config.limitViewBase))
    | .outside | .commandPage | .staging | .ordinary | .cueRing | .audioRing => none

end Sys2Proof.Machine
end

