-- ==== Sys2Proof/Machine/Audio.lean ====
section
/-! DEFINITION. The Audio Unit (chapter 4): the frame period and its report, mute, the level monitors. -/

namespace Sys2Proof.Machine

/-! ## Level monitors (R83 to R88) -/

/-- The peak magnitude of a sample (R85): s, or -s for a negative s, and 32,767 for -32,768. -/
def magnitude (x : Half) : BitVec 15 := BitVec.ofNat 15 (min Config.magnitudeMax x.toInt.natAbs)

/-- A fresh window: frames counted, running peak and running count at 0 (R84). -/
def Monitor.fresh (m : Monitor) : Monitor := { m with counted := 0, peak := 0, count := 0 }

/-- The monitor is on (R71). -/
def Monitor.isOn (m : Monitor) : Bool := decide (m.window ≠ 0)

/-- One emitted sample taken by a monitor (R86). -/
def Monitor.take (m : Monitor) (x : Half) : Monitor :=
  { m with
    counted := m.counted + 1
    peak := if m.peak < magnitude x then magnitude x else m.peak
    count := if m.threshold ≤ magnitude x then m.count + 1 else m.count }

/-- The window of a monitor is complete: it is on and its frames counted have reached the window length (R87). -/
def Monitor.complete (m : Monitor) : Bool := m.isOn && decide (m.window ≤ m.counted)

/-- A window's results stored and the next window begun (R87). -/
def Monitor.ended (m : Monitor) : Monitor :=
  { m.fresh with storedPeak := m.peak, storedCount := m.count }

/-- A newly muted channel's monitor: window abandoned, stored results at 0 (R83). -/
def Monitor.muted (m : Monitor) : Monitor := { m.fresh with storedPeak := 0, storedCount := 0 }

/-- The state with channel c's monitor replaced. -/
def setMonitor (c : Fin 4) (m : Monitor) (s : State) : State :=
  s.setAu { s.au with monitors := s.au.monitors.set c.val m c.isLt }

/-- The end of channel c's window, if it is complete: results stored and the peak handed to the light unit (R87, R143). -/
def endWindow (c : Fin 4) (s : State) : State :=
  let m := s.au.monitors[c]
  if m.complete then takePeak c m.peak (setMonitor c m.ended s) else s

/-- Channel c is muted. -/
def isMuted (s : State) (c : Fin 4) : Bool := s.au.muteSet.getLsbD c

/-- Channel c's monitor fed the channel's emitted sample, if it is on and the channel unmuted, and its window ended if
complete (R73 step 5, R86, R87). -/
def feedMonitor (samples : Vector Half 4) (c : Fin 4) (s : State) : State :=
  let m := s.au.monitors[c]
  if m.isOn && !isMuted s c then endWindow c (setMonitor c (m.take samples[c]) s) else s

/-- All four monitors fed. -/
def feedMonitors (samples : Vector Half 4) (s : State) : State :=
  feedMonitor samples 3 (feedMonitor samples 2 (feedMonitor samples 1 (feedMonitor samples 0 s)))

/-! ## Mute (R81, R83) -/

/-- The effect of a new mute set on channel c's monitor (R83). -/
def muteChannel (old new : BitVec 4) (c : Fin 4) (s : State) : State :=
  if new.getLsbD c && !old.getLsbD c then takePeak c 0 (setMonitor c s.au.monitors[c].muted s)
  else if old.getLsbD c && !new.getLsbD c then setMonitor c s.au.monitors[c].fresh s
  else s

/-- An accepted MUTE (R81). -/
def takeMute (new : BitVec 4) (s : State) : State :=
  let old := s.au.muteSet
  let t := s.setAu { s.au with muteSet := new }
  muteChannel old new 3 (muteChannel old new 2 (muteChannel old new 1 (muteChannel old new 0 t)))

/-! ## The frame period (R73, R76 to R80) -/

/-- The frame of a period: the FIFO's head when a frame is taken, a silent frame otherwise (R73). -/
def periodFrame (s : State) : Frame :=
  match periodOutcome s with
  | .frameTaken => s.au.fifo.headD Frame.silent
  | .empty | .drainedSilence | .silentPeriod => Frame.silent

/-- The FIFO after a period: its head gone when a frame is taken (R75). -/
def takeFrame (s : State) : State :=
  match periodOutcome s with
  | .frameTaken => s.setAu { s.au with fifo := s.au.fifo.tail }
  | .empty | .drainedSilence | .silentPeriod => s

/-- Entry to STARVED: the starve count set to 0, one underflow counted, STARVED raised (R9, R80). -/
def starve (s : State) : State :=
  let q := s.setSq { s.sq with state := .starved, starveCount := 0 }
  raise .starved (q.setAu { q.au with underflowCount := saturate16 q.au.underflowCount 1 })

/-- The STARVE_LIMIT fault, raised when the starve count has reached the converted limit in STARVED (R10). -/
def starveLimitTest (s : State) : State :=
  if s.sq.state = .starved ∧ s.sq.starveCount = s.sq.starveLimit then takeFault .starveLimit s else s

/-- One more starved period counted, and the limit tested (R10). -/
def countStarved (s : State) : State :=
  starveLimitTest (s.setSq { s.sq with starveCount := s.sq.starveCount + 1 })

/-- The sequencer's answer to a period's outcome (R7 to R12): an advance in RUNNING, a resume and an advance in STARVED, an
entry into STARVED, or one more starved period. -/
def takeReport (outcome : PeriodOutcome) (s : State) : State :=
  match outcome, s.sq.state with
  | .frameTaken, .running | .drainedSilence, .running => advance s
  | .frameTaken, .starved | .drainedSilence, .starved => advance (setShow .running s)
  | .empty, .running => starve s
  | .empty, .starved => countStarved s
  | _, _ => s

/-- The samples emitted for a frame: 0 on each muted channel (R82). -/
def emitted (s : State) (f : Frame) : Vector Half 4 :=
  tabulate fun c => if isMuted s c then 0 else f.sample c

/-- The frame shifted out: the first of a show when the lines were waiting for one (R89, R90). -/
def shiftOut (samples : Vector Half 4) (s : State) : State :=
  s.setAu { s.au with lines := .shifting samples (decide (s.au.lines = .waiting)) }

/-- A frame period of the running frame clock (R73). -/
def runPeriod (s : State) : State :=
  let t := takeReport (periodOutcome s) (takeFrame s)
  let samples := emitted t (periodFrame s)
  feedMonitors samples (shiftOut samples t)

/-- A frame period: there is none while the frame clock is stopped (R72). -/
def playPeriod (s : State) : State := if s.au.clock.isSome then runPeriod s else s

end Sys2Proof.Machine
end

