-- ==== Sys2Proof/Machine/ShowOps.lean ====
section
/-! DEFINITION. The show commands (R179): for each, the outcome its tests decide and the effect it has when accepted. -/

namespace Sys2Proof.Machine

/-- An outcome from one test after another: accepted when the argument test holds. -/
def argOutcome (ok : Bool) : CommandOutcome := if ok then .accepted else .refusedArg

/-- REFUSED_STATE unless the show state admits the command, then the argument test (R179). -/
def stateThenArg (stateOk argOk : Bool) : CommandOutcome := if stateOk then argOutcome argOk else .refusedState

/-- The show state is the one given. -/
def inState (s : State) (x : ShowState) : Bool := decide (s.sq.state = x)

/-! ## START (R2, R3, R88, R90) -/

/-- The rate a rate code names (R2). -/
def rateOf (code : Word) : Option Rate :=
  match code.toNat with
  | 0 => some .r32000
  | 1 => some .r44100
  | 2 => some .r48000
  | _ => none

/-- The sync mode ARG2 names (R2). -/
def syncOf (w : Word) : Option SyncMode :=
  match w.toNat with
  | 0 => some .immediate
  | 1 => some .wait
  | _ => none

/-- The third check of R2. -/
def startArgsOk (x : ReportUnit) : Bool :=
  (rateOf x.arg0).isSome && decide (x.arg1 < Config.positionMax) && (syncOf x.arg2).isSome

/-- The second check of R2. -/
def startLimitsOk (x : LimitStore) : Bool := x.valid && x.operation.isNone

/-- The outcome of START: three groups of checks in order (R2). -/
def startOutcome (s : State) : CommandOutcome :=
  if inState s .idle then
    if startLimitsOk s.ls then argOutcome (startArgsOk s.ru) else .refusedLimits
  else .refusedState

/-- The sequencer as an accepted START leaves it, before the priming test (R3). -/
def Sequencer.begin (x : Sequencer) (t : LimitTable) (rate : Rate) (sync : SyncMode) (position : Word) : Sequencer :=
  { x with
    state := .priming
    rate := rate
    sync := sync
    valveLeads := tabulate fun v => framesOf rate.perSecond (t.valveLead v)
    pumpLeads := tabulate fun p => framesOf rate.perSecond (t.pumpLead p)
    lightLags := tabulate fun g => framesOf rate.perSecond (t.lightLag g)
    starveLimit := framesOf rate.perSecond t.starveLimitMs
    position := position
    holdHost := false
    holdInterlock := false
    holdPending := .clear
    starveCount := 0
    faultRecord := FaultRecord.empty
    lastMark := none }

/-- The monitor of channel c at an accepted START: a fresh window if it is on and the channel unmuted (R88). -/
def monitorAtStart (x : AudioUnit) (c : Fin 4) : Monitor :=
  if x.monitors[c].isOn && !x.muteSet.getLsbD c then x.monitors[c].fresh else x.monitors[c]

/-- The audio unit as an accepted START leaves it: clock running, lines waiting for the first frame period (R3, R88, R90). -/
def AudioUnit.begin (x : AudioUnit) (rate : Rate) : AudioUnit :=
  { x with clock := some rate, lines := .waiting, monitors := tabulate (monitorAtStart x) }

/-- An accepted START (R3), and the priming test made once at it (R4). -/
def startShow (s : State) : State :=
  let rate := (rateOf s.ru.arg0).getD .r32000
  let sync := (syncOf s.ru.arg2).getD .immediate
  primingTest ((s.setSq (s.sq.begin s.ls.table rate sync s.ru.arg1)).setAu (s.au.begin rate))

/-! ## STOP, HOLD, STEP, PROCEED (R14, R16, R17, R19) -/

/-- The outcome of STOP (R19). -/
def stopOutcome (s : State) : CommandOutcome := stateThenArg s.sq.state.live true

/-- The show state admits HOLD (R14). -/
def ShowState.holdable : ShowState → Bool
  | .running | .starved | .held => true
  | .idle | .priming | .armed | .winddown | .tripped => false

/-- The outcome of HOLD (R14). -/
def holdOutcome (s : State) : CommandOutcome := stateThenArg s.sq.state.holdable (decide (s.ru.arg0.toNat ≤ 1))

/-- An accepted HOLD: immediate for ARG0 1, at-mark for ARG0 0 (R14). -/
def takeHold (s : State) : State :=
  if s.ru.arg0 = 1 then holdForHost s else s.setSq { s.sq with holdPending := .atMark }

/-- The outcome of STEP: HELD with reasons exactly {HOST} (R16). -/
def stepOutcome (s : State) : CommandOutcome :=
  stateThenArg (inState s .held && s.sq.holdHost && !s.sq.holdInterlock) true

/-- An accepted STEP (R16). -/
def takeStep (s : State) : State := enterRunning (s.setSq { s.sq with holdHost := false, holdPending := .atMark })

/-- The outcome of PROCEED (R17). -/
def proceedOutcome (s : State) : CommandOutcome := stateThenArg (inState s .held) true

/-- An accepted PROCEED (R17). -/
def takeProceed (s : State) : State :=
  let t := s.setSq { s.sq with holdHost := false, holdPending := .clear }
  if t.sq.holdInterlock then t else enterRunning t

/-! ## The commands of the other blocks -/

/-- The outcome of RING_RESET (R46). -/
def ringResetOutcome (s : State) : CommandOutcome := stateThenArg (inState s .idle) true

/-- The outcome of AMBIENT (R149). -/
def ambientOutcome (s : State) : CommandOutcome := stateThenArg (inState s .idle) (decide (s.ru.arg1.toNat ≤ 1023))

/-- An accepted AMBIENT (R149). -/
def takeAmbient (s : State) : State := ambientLight (colourOfWord s.ru.arg0) (BitVec.ofNat 10 s.ru.arg1.toNat) s

/-- The outcome of CUE_RESYNC (R54). -/
def resyncOutcome (s : State) : CommandOutcome := argOutcome (decide (s.ru.arg0.toNat ≤ 255))

/-- An accepted CUE_RESYNC: the expected sequence set, the block cleared, and a head whose marker is clear examined (R54). -/
def takeResync (s : State) : State :=
  let t := s.setFu { s.fu with expectedSequence := BitVec.ofNat 8 s.ru.arg0.toNat, cueBlocked := false }
  if t.sq.headAccepted then t else examineHead t

/-- The second step of RELEASE_INTERLOCKS: TRIPPED is left for IDLE, the fault record emptied, when no TRIP entry is matched
(R26). -/
def leaveTripped (s : State) : State :=
  if inState s .tripped && !anyMatched s .trip then
    s.setSq { s.sq with state := .idle, faultRecord := FaultRecord.empty }
  else s

/-- RELEASE_INTERLOCKS (R26). -/
def takeRelease (s : State) : State := leaveTripped (unlatch s)

/-- The outcome of MUTE (R81). -/
def muteOutcome (s : State) : CommandOutcome := argOutcome (decide (s.ru.arg0.toNat ≤ 15))

/-- The outcome of MONITOR (R84). -/
def monitorOutcome (s : State) : CommandOutcome :=
  argOutcome (decide (s.ru.arg0.toNat ≤ 3 ∧ s.ru.arg1.toNat ≤ 65535 ∧ s.ru.arg2.toNat ≤ Config.magnitudeMax))

/-- An accepted MONITOR: the window length and threshold set, and a fresh window begun; stored results are kept (R84). -/
def takeMonitor (s : State) : State :=
  let c : Fin 4 := Fin.ofNat 4 s.ru.arg0.toNat
  setMonitor c { s.au.monitors[c].fresh with
    window := BitVec.ofNat 16 s.ru.arg1.toNat, threshold := BitVec.ofNat 15 s.ru.arg2.toNat } s

/-- The outcome of SPACE_TRIGGERS (R45). -/
def triggersOutcome (s : State) : CommandOutcome :=
  argOutcome (decide (1 ≤ s.ru.arg0.toNat ∧ s.ru.arg0.toNat ≤ 4095 ∧ 1 ≤ s.ru.arg1.toNat ∧ s.ru.arg1.toNat ≤ 114687))

/-- An accepted SPACE_TRIGGERS (R45). -/
def takeTriggers (s : State) : State :=
  s.setFu { s.fu with cueTrigger := s.ru.arg0.toNat, audioTrigger := s.ru.arg1.toNat }

/-- CLEAR_COUNTS (R180). -/
def clearCounters (s : State) : State :=
  let a := s.setPu { s.pu with refusedCount := 0 }
  let b := a.setSq { a.sq with lateCount := 0, discardedCount := 0, cueErrorCount := 0 }
  b.setAu { b.au with underflowCount := 0 }

/-! ## Taking a show command (R178) -/

/-- The result record replaced (R178). -/
def recordResult (code : Word) (outcome : CommandOutcome) (s : State) : State :=
  s.setRu { s.ru with code := code, outcome := outcome }

/-- A show command taken as one event: its effect if accepted, and then the result record (R178). -/
def takeCommand (code : Word) (outcome : CommandOutcome) (act : State → State) (s : State) : State :=
  recordResult code outcome (if outcome = .accepted then act s else s)

/-- The outcome of a show command (R179). -/
def ShowCommand.outcome (c : ShowCommand) (s : State) : CommandOutcome :=
  match c with
  | .start => startOutcome s
  | .stop => stopOutcome s
  | .hold => holdOutcome s
  | .step => stepOutcome s
  | .proceed => proceedOutcome s
  | .ringReset => ringResetOutcome s
  | .ambient => ambientOutcome s
  | .cueResync => resyncOutcome s
  | .releaseInterlocks => .accepted
  | .mute => muteOutcome s
  | .monitor => monitorOutcome s
  | .spaceTriggers => triggersOutcome s
  | .clearCounts => .accepted

/-- The effect of an accepted show command. -/
def ShowCommand.act (c : ShowCommand) (s : State) : State :=
  match c with
  | .start => startShow s
  | .stop => windDown .normal s
  | .hold => takeHold s
  | .step => takeStep s
  | .proceed => takeProceed s
  | .ringReset => resetRings s
  | .ambient => takeAmbient s
  | .cueResync => takeResync s
  | .releaseInterlocks => takeRelease s
  | .mute => takeMute (BitVec.ofNat 4 s.ru.arg0.toNat) s
  | .monitor => takeMonitor s
  | .spaceTriggers => takeTriggers s
  | .clearCounts => clearCounters s

/-- A full write to SHOW_CMD: the command its code names, or REFUSED_ARG (R178, R187). -/
def takeShowCommand (code : Word) (s : State) : State :=
  match showCommandOf code with
  | some c => takeCommand code (c.outcome s) c.act s
  | none => recordResult code .refusedArg s

end Sys2Proof.Machine
end

