-- ==== Sys2Proof/Machine/Path.lean ====
section
/-! DEFINITION. The Path Unit (chapter 9): the decision of a written word, captures and refusals, transactions, the arbiter,
and answered reads. -/

namespace Sys2Proof.Machine

/-! ## Transactions (R168) -/

/-- The word is the last of its transaction: a single word, or the fourth of a burst. -/
def endsTransaction (w : BusWrite) : Bool := !w.burst || decide (w.address.extractLsb' 0 2 = 3)

/-- A decided word put with the words of its burst before it, and, when it ends the transaction, the transaction put to wait
for the port unless every word of it was refused (R168, R172). A single word is a transaction of its own. A burst comes to wait
at its last word, so a fetch request that an earlier word's capture raises at a free port is there before it (DESIGN CHOICE,
log entries 18 and 19). -/
def pushWord (w : BusWrite) (refused : Bool) (s : State) : State :=
  let word : BusWord :=
    { address := w.address, data := w.data, enables := if refused then 0 else w.enables, refused := refused }
  let words := if w.burst then s.pu.assembling ++ [word] else [word]
  if endsTransaction w then
    s.setPu { s.pu with
      assembling := if w.burst then [] else s.pu.assembling
      carried := if w.burst then false else s.pu.carried
      waiting := if words.all (fun x => x.refused) then s.pu.waiting else s.pu.waiting ++ [.write words] }
  else s.setPu { s.pu with assembling := words }

/-! ## Refusals (R172) -/

/-- A written word refused: counted, its address recorded, REFUSED raised, and the word sent on with no enable. -/
def refuseWord (w : BusWrite) (s : State) : State :=
  let t := s.setPu { s.pu with
    refusedCount := saturate16 s.pu.refusedCount 1, lastRefused := w.address.toAddr }
  pushWord w true (raise .refused t)

/-- A word with an enable asserted is refused: in the status page, the limit view, or a published ring slot (R169, R172). -/
def refusesWord (s : State) (a : WordAddr) : Bool :=
  match regionOf s.pu.base a with
  | .statusPage | .limitView => true
  | .cueRing | .audioRing => protectedOffset s.fu (windowOffset a)
  | .outside | .commandPage | .staging | .ordinary => false

/-! ## Captures (R171) -/

/-- A full write to an argument word (R177). -/
def takeArg (i : Fin 3) (value : Word) (s : State) : State :=
  match i with
  | 0 => s.setRu { s.ru with arg0 := value }
  | 1 => s.setRu { s.ru with arg1 := value }
  | 2 => s.setRu { s.ru with arg2 := value }

/-- A full write to ATTN_ENABLE (R183). -/
def takeEnable (value : Word) (s : State) : State := s.setRu { s.ru with enable := causeSet value }

/-- A full write to ATTN_CLEAR (R184). -/
def takeClear (value : Word) (s : State) : State :=
  s.setRu { s.ru with pending := s.ru.pending &&& ~~~ causeSet value }

/-- A partial write to SHOW_CMD (R178). -/
def takePartial (s : State) : State := recordResult 0 .partialWrite s

/-- The capture of a full write, by window offset (R171). -/
def captureFull (offset : Nat) (value : Word) (progEn : Bool) (s : State) : State :=
  if offset = Config.showCmd then takeShowCommand value s
  else if offset = Config.showArg then takeArg 0 value s
  else if offset = Config.showArg + 4 then takeArg 1 value s
  else if offset = Config.showArg + 8 then takeArg 2 value s
  else if offset = Config.cueMark then writeCueMark value s
  else if offset = Config.audioMark then writeAudioMark value s
  else if offset = Config.limitCmd then takeLimitCommand value progEn s
  else if offset = Config.attnEnable then takeEnable value s
  else if offset = Config.attnClear then takeClear value s
  else if Config.stagingBase ≤ offset ∧ offset < Config.ordinaryBase then
    captureStaging (Fin.ofNat 16 ((offset - Config.stagingBase) / 4)) value s
  else s

/-- The capture of a written word with an enable asserted: a full write to a defined word, or a partial one to SHOW_CMD
(R171). -/
def captureWord (w : BusWrite) (progEn : Bool) (s : State) : State :=
  if inWindow s.pu.base w.address then
    if w.enables = 15 then captureFull (windowOffset w.address) w.data progEn s
    else if windowOffset w.address = Config.showCmd then takePartial s
    else s
  else s

/-- A written word passes undecided: while RESET_N is asserted, and as a word of a burst presented before the release
(R175). -/
def transparent (burst : Bool) (s : State) : Bool := s.inReset || (burst && s.pu.carried)

/-- The decision of a written word (R168, R169, R175): forwarded as it stands on the transparent path or when no enable is
asserted, refused, or captured if it is a defined word and forwarded. -/
def decideWord (w : BusWrite) (progEn : Bool) (s : State) : State :=
  if transparent w.burst s || decide (w.enables = 0) then pushWord w false s
  else if refusesWord s w.address then refuseWord w s
  else pushWord w false (captureWord w progEn s)

/-- A full write to a defined word at a window offset, with the capture it has; on the transparent path it is forwarded
only (R171, R175). -/
def captured (offset : Nat) (value : Word) (burst : Bool) (capture : State → State) (s : State) : State :=
  let t := if transparent burst s then s else capture s
  pushWord { address := windowWord s.pu.base offset, data := value, enables := 15, burst := burst } false t

/-! ## Reads (R168, R170, R185) -/

/-- A forwarded read put to wait for the port (R168). -/
def waitRead (r : BusRead) (s : State) : State :=
  s.setPu { s.pu with waiting := s.pu.waiting ++ [.read r] }

/-- The words of an answered read, one or the four of its burst, composed together (R170). -/
def answeredWords (s : State) (r : BusRead) : List Word := (readAddresses r).map (fun a => (answeredWord s a).getD 0)

/-- The address is the cause word's (section 11.3). -/
def isCauseWord (base : BitVec 6) (a : WordAddr) : Bool :=
  inWindow base a && decide (windowOffset a = Config.statusBase + Config.causeWord)

/-- A read answered by the part: its words returned as they stood, whatever its byte enables, and then, if the cause word is
among them, the cause it returned removed from the pending set (R170, R181, R185). -/
def answerRead (r : BusRead) (s : State) : State :=
  let t := s.setPu { s.pu with readData := answeredWords s r }
  if (readAddresses r).any (isCauseWord s.pu.base) then t.setRu (dropTopCause s.ru) else t

/-- A read the processor presents: answered at once in the status page and the limit view, put to wait for the port elsewhere
and in reset (R168, R169, R170, R175). -/
def presentRead (r : BusRead) (s : State) : State :=
  match answeredWord s r.address with
  | some _ => answerRead r s
  | none => waitRead r s

/-- The read of the cause word, alone or with the aligned burst it lies in. -/
def causeRead (base : BitVec 6) (form : ReadForm) : BusRead :=
  { form with
    address := windowWord base (Config.statusBase + if form.burst then Config.causeWord - 4 else Config.causeWord) }

/-- A read of the cause word presented (R185); forwarded in reset (R175). -/
def readCauseWord (form : ReadForm) (s : State) : State := presentRead (causeRead s.pu.base form) s

/-! ## The arbiter (R173, R174) -/

/-- Memory after a granted transaction's data has gone to it (R168). -/
def memoryAfter (m : List Host.Cell) : Transaction → List Host.Cell
  | .write words => Memory.writeWords m words
  | .read _ => m

/-- The port granted to the first waiting processor transaction, whose data then goes to memory. -/
def grantProcessor (t : Transaction) (rest : List Transaction) (waitCount : Fin 9) (s : State) : State :=
  (s.setPu { s.pu with port := .processor t, waiting := rest, waitCount := waitCount }).setMem (memoryAfter s.mem t)

/-- The port granted to the fetch unit, which chooses its burst at this moment (R35, R173). -/
def grantFetch (s : State) : State :=
  match chooseBurst s with
  | some k => s.setPu { s.pu with port := .fetch { kind := k, void := false }, waitCount := 0 }
  | none => s

/-- The port granted to the first waiting processor transaction, with the wait count it leaves. -/
def grantWaiting (waitCount : Fin 9) (s : State) : State :=
  match s.pu.waiting with
  | [] => s
  | t :: rest => grantProcessor t rest waitCount s

/-- A grant by the table of R173. Of two requesters that arrived together at a free port either may be taken first, and the
first is granted at once: which it is comes with the command (DESIGN CHOICE, log entry 19). -/
def grantClaim (fetchFirst : Bool) (claim : Claim) (s : State) : State :=
  match claim with
  | .processor => grantWaiting s.pu.waitCount s
  | .fetch => grantFetch s
  | .both => if s.pu.waitCount = 8 then grantFetch s else grantWaiting (s.pu.waitCount + 1) s
  | .together => if fetchFirst then grantFetch s else grantWaiting s.pu.waitCount s

/-- A grant: of a free port, when one is due (R173). -/
def grantPort (fetchFirst : Bool) (s : State) : State :=
  match s.pu.port, s.pu.arbiter with
  | .free, .due claim => grantClaim fetchFirst claim s
  | .free, .busy | .free, .idle | .processor _, _ | .fetch _, _ => s

/-- The words a finished read returns on the P-side (R168, R170). -/
def dataReturned (s : State) : Transaction → List Word
  | .read r => (readAddresses r).map (Memory.readWord s.mem)
  | .write _ => s.pu.readData

/-- The end of the processor transaction on the port: a read's data returned, and the port freed (R168). -/
def endTransaction (s : State) : State :=
  match s.pu.port with
  | .processor t => s.setPu { s.pu with port := .free, readData := dataReturned s t }
  | .free | .fetch _ => s

/-- The end of the fetch burst on the port (R38). -/
def endBurst (s : State) : State :=
  match s.pu.port with
  | .fetch b => completeBurst b s
  | .free | .processor _ => s

end Sys2Proof.Machine
end

