-- ==== Sys2Proof/Machine/GuardEvents.lean ====
section
/-! DEFINITION. The events of the sense inputs and of the wind (chapter 6). -/

namespace Sys2Proof.Machine

/-- A sense input's raw level as it now stands; only a change is an event (R119). -/
def changeLevel (input : Fin 16) (high : Bool) (s : State) : State :=
  if s.gu.raw.getLsbD input = high then s else takeRawLevel input high s

/-- The expiry of an input's debounce timer, if it is running (R120). -/
def timerExpires (input : Fin 16) (s : State) : State :=
  if s.gu.timers[input].isSome then expireDebounce input s else s

/-- A rising edge on WIND_IN counted (R131). -/
def countPulse (s : State) : State := s.setGu { s.gu with pulses := saturate16 s.gu.pulses 1 }

/-- The expiry of the wind gate, if it is running (R131, R132). -/
def gateExpires (s : State) : State := if s.gu.gate.isSome then expireGate s else s

/-- A change of a sense input's raw level (R119). -/
def execSenseLevelChange (input : Fin 16) (high : Bool) (s : State) : Host.Outcome State Fault Refusal :=
  answer (outOfReset (changeLevel input high) s)

/-- The expiry of a debounce timer (R120, R123). -/
def execDebounceTimerExpiry (input : Fin 16) (s : State) : Host.Outcome State Fault Refusal :=
  answer (outOfReset (timerExpires input) s)

/-- A rising edge on WIND_IN (R131). -/
def execWindInRising (s : State) : Host.Outcome State Fault Refusal := answer (outOfReset countPulse s)

/-- The expiry of the wind gate (R132). -/
def execWindGateExpiry (s : State) : Host.Outcome State Fault Refusal := answer (outOfReset gateExpires s)

end Sys2Proof.Machine
end

