-- ==== Sys2Proof/Machine/LimitCommands.lean ====
section
/-! DEFINITION. The limit commands, writes to LIMIT_CMD, and the completions of their operations (chapter 8). -/

namespace Sys2Proof.Machine

/-- PROGRAM_ROW: tested by R158, and if accepted its operation started (R160). -/
def execProgramRow (row : Fin 32) (upper : Half) (progEn burst : Bool) (s : State) : Host.Outcome State Fault Refusal :=
  answer (captured Config.limitCmd (limitWord upper (BitVec.ofNat 8 row.val) 0x01) burst
    (takeLimitCommand (limitWord upper (BitVec.ofNat 8 row.val) 0x01) progEn) s)

/-- ERASE_ALL: tested by R158, and if accepted its operation started (R160). -/
def execEraseAll (rowField : Byte) (upper : Half) (progEn burst : Bool) (s : State) : Host.Outcome State Fault Refusal :=
  answer (captured Config.limitCmd (limitWord upper rowField 0x02) burst
    (takeLimitCommand (limitWord upper rowField 0x02) progEn) s)

/-- SET_LOCK: tested by R158, and if accepted its operation started (R160). -/
def execSetLock (rowField : Byte) (upper : Half) (progEn burst : Bool) (s : State) : Host.Outcome State Fault Refusal :=
  answer (captured Config.limitCmd (limitWord upper rowField 0x03) burst
    (takeLimitCommand (limitWord upper rowField 0x03) progEn) s)

/-- CLEAR_STAGING: tested by R158, and if accepted done at once (R159). -/
def execClearStaging (rowField : Byte) (upper : Half) (progEn burst : Bool) (s : State) : Host.Outcome State Fault Refusal :=
  answer (captured Config.limitCmd (limitWord upper rowField 0x04) burst
    (takeLimitCommand (limitWord upper rowField 0x04) progEn) s)

/-- A full write to LIMIT_CMD whose code or row field is unlawful: recorded and refused (R158, R187). -/
def execLimitCmdUnknownCode (word : Word) (progEn burst : Bool) (s : State) : Host.Outcome State Fault Refusal :=
  answer (captured Config.limitCmd word burst (takeLimitCommand word progEn) s)

/-- The completion of a PROGRAM_ROW; with none in progress there is no completion (R161, R162). -/
def execProgramRowCompletion (arrayHolds : Bool) (s : State) : Host.Outcome State Fault Refusal :=
  answer (outOfReset (completeProgramRow arrayHolds) s)

/-- The completion of an ERASE_ALL; with none in progress there is no completion (R161, R162). -/
def execEraseAllCompletion (s : State) : Host.Outcome State Fault Refusal := answer (outOfReset completeEraseAll s)

/-- The completion of a SET_LOCK; with none in progress there is no completion (R161, R162). -/
def execSetLockCompletion (s : State) : Host.Outcome State Fault Refusal := answer (outOfReset completeSetLock s)

end Sys2Proof.Machine
end

