-- ==== Sys2Proof/Machine/PathEvents.lean ====
section
/-! DEFINITION. The memory path: processor writes, grants, and the ends of transactions and bursts (chapter 9). -/

namespace Sys2Proof.Machine

/-- A processor write of one word: forwarded, captured or refused by its region (R169, R171, R172). A full write to a defined
word acts as that word's own row. -/
def execProcessorWrite (write : BusWrite) (progEn : Bool) (s : State) : Host.Outcome State Fault Refusal :=
  answer (decideWord write progEn s)

/-- A grant of the free port (R173), before which a read that arrives at the part is answered or put to wait (R168). -/
def execArbiterGrant (input : GrantInput) (s : State) : Host.Outcome State Fault Refusal :=
  match input.arriving with
  | some r => answer (grantPort input.fetchFirst (settleArbiter (presentRead r s)))
  | none => answer (grantPort input.fetchFirst s)

/-- The end of the processor transaction on the port (R168). -/
def execProcessorTransactionEnd (s : State) : Host.Outcome State Fault Refusal := answer (endTransaction s)

/-- The completion of the fetch burst on the port (R38, R39). -/
def execFetchBurstCompletion (s : State) : Host.Outcome State Fault Refusal := answer (outOfReset endBurst s)

end Sys2Proof.Machine
end

