-- ==== Sys2Proof/Machine/PeriodEvents.lean ====
section
/-! DEFINITION. The periods of the water and light units, the one in which a deferred valve closes, and the one that completes
a wind-down (chapters 1, 5 and 7). -/

namespace Sys2Proof.Machine

/-- A field period, and the wind-down completion test that follows it (R108, R25). -/
def takeFieldPeriod (s : State) : State := winddownTest (waterPeriod s)

/-- A colour period noted by the sequencer, which counts one from wind-down entry on (R25, fourth condition). -/
def noteColourPeriod (s : State) : State := s.setSq { s.sq with colourTaken := true }

/-- A colour period, and the wind-down completion test that follows it (R138, R25). -/
def takeColourPeriod (s : State) : State := winddownTest (noteColourPeriod (lightPeriod s))

/-- The valve's deferred close goes through at a field period taken now: it is deferred, and after the ramps it has no blocking
pump (R98). -/
def closesAtPeriod (valve : Fin 192) (s : State) : Bool :=
  s.wu.deferred.getLsbD valve && !hasBlocking (rampPumps s) valve

/-- The field period in which a deferred valve's close goes through, when the next one is that (R98, log entry 5). -/
def deferredClosePeriod (valve : Fin 192) (s : State) : State :=
  if closesAtPeriod valve s then takeFieldPeriod s else s

/-- The period that completes a wind-down: the field period, or else the colour period, at whose end the completion test
passes (R25, log entry 5). -/
def winddownPeriod (s : State) : State :=
  if winddownDone (waterPeriod s) then takeFieldPeriod s
  else if winddownDone (noteColourPeriod (lightPeriod s)) then takeColourPeriod s
  else s

/-- A field period (R108). -/
def execFieldPeriod (s : State) : Host.Outcome State Fault Refusal := answer (outOfReset takeFieldPeriod s)

/-- The closing of a deferred valve that no longer has a blocking pump: the field period that closes it (R98). -/
def execDeferredCloseApply (valve : Fin 192) (s : State) : Host.Outcome State Fault Refusal :=
  answer (outOfReset (deferredClosePeriod valve) s)

/-- Completion of wind-down: the period at whose end it comes (R25). -/
def execWinddownCompletion (s : State) : Host.Outcome State Fault Refusal := answer (outOfReset winddownPeriod s)

/-- A colour period (R138). -/
def execColourPeriod (s : State) : Host.Outcome State Fault Refusal := answer (outOfReset takeColourPeriod s)

end Sys2Proof.Machine
end

