-- ==== Sys2Proof/Machine/RegisterWrites.lean ====
section
/-! DEFINITION. The other captured words and the read of the cause word (R171, R185). -/

namespace Sys2Proof.Machine

/-- A full write to SHOW_ARG0, SHOW_ARG1 or SHOW_ARG2 (R177). -/
def execShowArgWrite (index : Fin 3) (value : Word) (burst : Bool) (s : State) : Host.Outcome State Fault Refusal :=
  answer (captured (Config.showArg + 4 * index.val) value burst (takeArg index value) s)

/-- A full write to CUE_MARK (R29, R31). -/
def execCueMarkWrite (value : Word) (burst : Bool) (s : State) : Host.Outcome State Fault Refusal :=
  answer (captured Config.cueMark value burst (writeCueMark value) s)

/-- A full write to AUDIO_MARK (R30, R31). -/
def execAudioMarkWrite (value : Word) (burst : Bool) (s : State) : Host.Outcome State Fault Refusal :=
  answer (captured Config.audioMark value burst (writeAudioMark value) s)

/-- A full write to ATTN_ENABLE (R183). -/
def execAttnEnableWrite (value : Word) (burst : Bool) (s : State) : Host.Outcome State Fault Refusal :=
  answer (captured Config.attnEnable value burst (takeEnable value) s)

/-- A full write to ATTN_CLEAR (R184). -/
def execAttnClearWrite (value : Word) (burst : Bool) (s : State) : Host.Outcome State Fault Refusal :=
  answer (captured Config.attnClear value burst (takeClear value) s)

/-- A read of the cause word, alone or in a burst (R185). -/
def execCauseWordRead (form : ReadForm) (s : State) : Host.Outcome State Fault Refusal := answer (readCauseWord form s)

/-- A full write to a staging word (R157). -/
def execStagingWordWrite (index : Fin 16) (value : Word) (burst : Bool) (s : State) : Host.Outcome State Fault Refusal :=
  answer (captured (Config.stagingBase + 4 * index.val) value burst (captureStaging index value) s)

end Sys2Proof.Machine
end

