-- ==== Sys2Proof/Machine/ResetEvents.lean ====
section
/-! DEFINITION. Assertion and release of RESET_N (R175, R165, R167, R117, R108, R138). -/

namespace Sys2Proof.Machine

/-! ## Assertion -/

/-- The limit store at the assertion: everything volatile at its reset value, the table and lock cell kept but for an
operation cut short; the table state stands until it is recomputed at release (R152, R165). -/
def LimitStore.atAssert (x : LimitStore) : LimitStore :=
  { LimitStore.reset with
    table := x.tableAfterReset, locked := x.lockedAfterReset, tableState := x.tableState }

/-- The port at the assertion: a fetch read is ended at once, a processor transaction is carried through (R175). -/
def Port.atAssert : Port → Port
  | .free => .free
  | .processor t => .processor t
  | .fetch _ => .free

/-- The path unit at the assertion: its counts and address at their reset values; what concerns processor transactions is
carried through, and the window base stands until it is sampled at release (R166, R175). -/
def PathUnit.atAssert (x : PathUnit) : PathUnit :=
  { PathUnit.reset with
    base := x.base
    port := x.port.atAssert
    arbiter := x.arbiter
    waiting := x.waiting
    assembling := x.assembling
    readData := x.readData }

/-- The guard unit at the assertion: its state at the reset values; the input levels stand, unsampled, until release. -/
def GuardUnit.atAssert (x : GuardUnit) : GuardUnit :=
  { GuardUnit.reset with raw := x.raw, debounced := x.debounced }

/-- RESET_N asserted: every block at its reset values (R175). -/
def assertReset (s : State) : State :=
  { State.reset with
    gu := s.gu.atAssert
    ls := s.ls.atAssert
    pu := s.pu.atAssert
    mem := s.mem
    meetings := s.meetings
    pending := s.pending }

/-! ## Release -/

/-- The straps sampled as the window base (R167). A burst whose words are still coming was presented before the release, and
goes on as the transparent path began it (R175). -/
def sampleStraps (straps : BitVec 6) (s : State) : State :=
  s.setPu { s.pu with base := straps, carried := !s.pu.assembling.isEmpty }

/-- The sense levels sampled, the debounced levels taking them at once with no edge event (R117). -/
def sampleSenses (senses : Half) (s : State) : State :=
  s.setGu { s.gu with raw := senses, debounced := senses, timers := Vector.replicate 16 none }

/-- The table state recomputed (R153). -/
def recomputeTable (s : State) : State := s.setLs { s.ls with tableState := s.ls.table.state }

/-- The wind gate started (R131). -/
def startGate (s : State) : State := s.setGu { s.gu with gate := some s.ls.gate }

/-- RESET_N released. The samples are taken, the table state recomputed, the levels evaluation made and the wind gate started
(R117, R124, R153, R167), and the first field period and colour period are taken (R108, R138). -/
def releaseReset (straps : BitVec 6) (senses : Half) (s : State) : State :=
  let sampled := sampleSenses senses (sampleStraps straps { s with inReset := false })
  takeColourPeriod (takeFieldPeriod (startGate (evaluateLevels (recomputeTable sampled))))

/-- RESET_N goes high, if it was asserted. -/
def endReset (straps : BitVec 6) (senses : Half) (s : State) : State :=
  if s.inReset then releaseReset straps senses s else s

/-- Assertion of RESET_N, or a power failure (R175). -/
def execResetAssert (s : State) : Host.Outcome State Fault Refusal := answer (assertReset s)

/-- Release of RESET_N (R167). -/
def execResetRelease (straps : BitVec 6) (senses : Half) (s : State) : Host.Outcome State Fault Refusal :=
  answer (endReset straps senses s)

end Sys2Proof.Machine
end

