-- ==== Sys2Proof/Machine/ShowCommands.lean ====
section
/-! DEFINITION. The show commands: writes to SHOW_CMD (chapter 10, R178, R179). -/

namespace Sys2Proof.Machine

/-- START: tested by R2, and if accepted started by R3. -/
def execStart (burst : Bool) (s : State) : Host.Outcome State Fault Refusal :=
  answer (captured Config.showCmd 0x01 burst (fun t => takeCommand 0x01 (startOutcome t) (startShow) t) s)

/-- STOP: normal wind-down (R19, R23). -/
def execStop (burst : Bool) (s : State) : Host.Outcome State Fault Refusal :=
  answer (captured Config.showCmd 0x02 burst (fun t => takeCommand 0x02 (stopOutcome t) (windDown .normal) t) s)

/-- HOLD: immediate or at the next mark, by ARG0 (R14). -/
def execHold (burst : Bool) (s : State) : Host.Outcome State Fault Refusal :=
  answer (captured Config.showCmd 0x03 burst (fun t => takeCommand 0x03 (holdOutcome t) (takeHold) t) s)

/-- STEP: on to the next mark, from HELD with reasons exactly {HOST} (R16). -/
def execStep (burst : Bool) (s : State) : Host.Outcome State Fault Refusal :=
  answer (captured Config.showCmd 0x04 burst (fun t => takeCommand 0x04 (stepOutcome t) (takeStep) t) s)

/-- PROCEED: HOST removed, and the show run on when no reason remains (R17). -/
def execProceed (burst : Bool) (s : State) : Host.Outcome State Fault Refusal :=
  answer (captured Config.showCmd 0x05 burst (fun t => takeCommand 0x05 (proceedOutcome t) (takeProceed) t) s)

/-- RING_RESET: both rings emptied, in IDLE (R46). -/
def execRingReset (burst : Bool) (s : State) : Host.Outcome State Fault Refusal :=
  answer (captured Config.showCmd 0x06 burst (fun t => takeCommand 0x06 (ringResetOutcome t) (resetRings) t) s)

/-- AMBIENT: every group fades to one colour, in IDLE (R149). -/
def execAmbient (burst : Bool) (s : State) : Host.Outcome State Fault Refusal :=
  answer (captured Config.showCmd 0x07 burst (fun t => takeCommand 0x07 (ambientOutcome t) (takeAmbient) t) s)

/-- CUE_RESYNC: the expected sequence set and a blocked head examined again (R54). -/
def execCueResync (burst : Bool) (s : State) : Host.Outcome State Fault Refusal :=
  answer (captured Config.showCmd 0x08 burst (fun t => takeCommand 0x08 (resyncOutcome t) (takeResync) t) s)

/-- RELEASE_INTERLOCKS: entries unlatched, and TRIPPED left when no TRIP entry is matched (R26, R125). -/
def execReleaseInterlocks (burst : Bool) (s : State) : Host.Outcome State Fault Refusal :=
  answer (captured Config.showCmd 0x09 burst (fun t => takeCommand 0x09 (.accepted) (takeRelease) t) s)

/-- MUTE: the mute set replaced (R81, R83). -/
def execMute (burst : Bool) (s : State) : Host.Outcome State Fault Refusal :=
  answer (captured Config.showCmd 0x0A burst (fun t => takeCommand 0x0A (muteOutcome t) (takeMute (BitVec.ofNat 4 t.ru.arg0.toNat)) t) s)

/-- MONITOR: a channel's window and threshold set (R84). -/
def execMonitor (burst : Bool) (s : State) : Host.Outcome State Fault Refusal :=
  answer (captured Config.showCmd 0x0B burst (fun t => takeCommand 0x0B (monitorOutcome t) (takeMonitor) t) s)

/-- SPACE_TRIGGERS: both space triggers set (R45). -/
def execSpaceTriggers (burst : Bool) (s : State) : Host.Outcome State Fault Refusal :=
  answer (captured Config.showCmd 0x0C burst (fun t => takeCommand 0x0C (triggersOutcome t) (takeTriggers) t) s)

/-- CLEAR_COUNTS: the five counters set to 0 (R180). -/
def execClearCounts (burst : Bool) (s : State) : Host.Outcome State Fault Refusal :=
  answer (captured Config.showCmd 0x0D burst (fun t => takeCommand 0x0D (.accepted) (clearCounters) t) s)

/-- A full write to SHOW_CMD of a value that names no command: refused with REFUSED_ARG, the value recorded (R178, R187). -/
def execShowCmdUnknownCode (code : Word) (burst : Bool) (s : State) : Host.Outcome State Fault Refusal :=
  answer (captured Config.showCmd code burst (takeShowCommand code) s)

/-- A partial write to SHOW_CMD: code 0 and PARTIAL_WRITE recorded, and no command taken (R178). -/
def execShowCmdPartialWrite (data : Word) (enables : BitVec 4) (burst : Bool) (s : State) : Host.Outcome State Fault Refusal :=
  answer (decideWord
    { address := windowWord s.pu.base Config.showCmd, data := data, enables := enables, burst := burst } false s)

end Sys2Proof.Machine
end

