-- ==== Sys2Proof/Machine/ShowEvents.lean ====
section
/-! DEFINITION. The events of the show: priming, expansion of a waiting record, SYNC_IN, the frame period and what comes about
inside it, and the end of a monitor window. A row that names what comes about inside another event acts
when its own condition holds as it is taken, and changes nothing otherwise (log entry 5). -/

namespace Sys2Proof.Machine

/-- The condition and effect of a frame period that resumes a STARVED show (R10). -/
def resumePeriod (s : State) : State :=
  if s.sq.state = .starved ∧ resumeTest s = true then playPeriod s else s

/-- A rising edge on SYNC_IN: an ARMED show runs, and in every other state nothing happens (R5). -/
def takeSync (s : State) : State := if s.sq.state = .armed then enterRunning s else s

/-- Completion of priming, when the show is PRIMING and primed (R4, R6). -/
def execPrimingComplete (s : State) : Host.Outcome State Fault Refusal := answer (outOfReset primingTest s)

/-- Expansion of a head record that waited for room, when it now has room (R59, R60). -/
def execWaitingRecordExpansion (s : State) : Host.Outcome State Fault Refusal := answer (outOfReset retryHead s)

/-- A rising edge on SYNC_IN (R5, R6). -/
def execSyncInRising (s : State) : Host.Outcome State Fault Refusal := answer (outOfReset takeSync s)

/-- A frame period, while the frame clock runs (R72, R73). -/
def execFramePeriod (s : State) : Host.Outcome State Fault Refusal := answer (outOfReset playPeriod s)

/-- The frame period in which a STARVED show resumes, when its resume test passes (R10, R77). -/
def execStarvedResume (s : State) : Host.Outcome State Fault Refusal := answer (outOfReset resumePeriod s)

/-- The STARVE_LIMIT fault, when the starve count of a STARVED show has reached the converted limit (R10, R22). -/
def execStarveLimit (s : State) : Host.Outcome State Fault Refusal := answer (outOfReset starveLimitTest s)

/-- The end of a channel's monitor window, when its frames counted have reached the window length (R87). -/
def execWindowEnd (channel : Fin 4) (s : State) : Host.Outcome State Fault Refusal :=
  answer (outOfReset (endWindow channel) s)

end Sys2Proof.Machine
end

