-- ==== Sys2Proof/Machine/Dispatch.lean ====
section
/-! DEFINITION. The dispatch of a command to its meaning: one arm per row of spec/opcode_table.json. -/

namespace Sys2Proof.Machine

/-- The effect of a command on everything but the queue. -/
def exec (i : Instr) (s : State) : Host.Outcome State Fault Refusal :=
  match i with
  | .start burst => Sys2Proof.Machine.execStart burst s
  | .stop burst => Sys2Proof.Machine.execStop burst s
  | .hold burst => Sys2Proof.Machine.execHold burst s
  | .step burst => Sys2Proof.Machine.execStep burst s
  | .proceed burst => Sys2Proof.Machine.execProceed burst s
  | .ringReset burst => Sys2Proof.Machine.execRingReset burst s
  | .ambient burst => Sys2Proof.Machine.execAmbient burst s
  | .cueResync burst => Sys2Proof.Machine.execCueResync burst s
  | .releaseInterlocks burst => Sys2Proof.Machine.execReleaseInterlocks burst s
  | .mute burst => Sys2Proof.Machine.execMute burst s
  | .monitor burst => Sys2Proof.Machine.execMonitor burst s
  | .spaceTriggers burst => Sys2Proof.Machine.execSpaceTriggers burst s
  | .clearCounts burst => Sys2Proof.Machine.execClearCounts burst s
  | .showCmdUnknownCode code burst => Sys2Proof.Machine.execShowCmdUnknownCode code burst s
  | .showCmdPartialWrite data enables burst => Sys2Proof.Machine.execShowCmdPartialWrite data enables burst s
  | .showArgWrite index value burst => Sys2Proof.Machine.execShowArgWrite index value burst s
  | .cueMarkWrite value burst => Sys2Proof.Machine.execCueMarkWrite value burst s
  | .audioMarkWrite value burst => Sys2Proof.Machine.execAudioMarkWrite value burst s
  | .attnEnableWrite value burst => Sys2Proof.Machine.execAttnEnableWrite value burst s
  | .attnClearWrite value burst => Sys2Proof.Machine.execAttnClearWrite value burst s
  | .causeWordRead form => Sys2Proof.Machine.execCauseWordRead form s
  | .stagingWordWrite index value burst => Sys2Proof.Machine.execStagingWordWrite index value burst s
  | .programRow row upper progEn burst => Sys2Proof.Machine.execProgramRow row upper progEn burst s
  | .eraseAll rowField upper progEn burst => Sys2Proof.Machine.execEraseAll rowField upper progEn burst s
  | .setLock rowField upper progEn burst => Sys2Proof.Machine.execSetLock rowField upper progEn burst s
  | .clearStaging rowField upper progEn burst => Sys2Proof.Machine.execClearStaging rowField upper progEn burst s
  | .limitCmdUnknownCode word progEn burst => Sys2Proof.Machine.execLimitCmdUnknownCode word progEn burst s
  | .programRowCompletion arrayHolds => Sys2Proof.Machine.execProgramRowCompletion arrayHolds s
  | .eraseAllCompletion => Sys2Proof.Machine.execEraseAllCompletion s
  | .setLockCompletion => Sys2Proof.Machine.execSetLockCompletion s
  | .processorWrite write progEn => Sys2Proof.Machine.execProcessorWrite write progEn s
  | .arbiterGrant input => Sys2Proof.Machine.execArbiterGrant input s
  | .processorTransactionEnd => Sys2Proof.Machine.execProcessorTransactionEnd s
  | .fetchBurstCompletion => Sys2Proof.Machine.execFetchBurstCompletion s
  | .primingComplete => Sys2Proof.Machine.execPrimingComplete s
  | .waitingRecordExpansion => Sys2Proof.Machine.execWaitingRecordExpansion s
  | .syncInRising => Sys2Proof.Machine.execSyncInRising s
  | .framePeriod => Sys2Proof.Machine.execFramePeriod s
  | .starvedResume => Sys2Proof.Machine.execStarvedResume s
  | .starveLimit => Sys2Proof.Machine.execStarveLimit s
  | .winddownCompletion => Sys2Proof.Machine.execWinddownCompletion s
  | .windowEnd channel => Sys2Proof.Machine.execWindowEnd channel s
  | .fieldPeriod => Sys2Proof.Machine.execFieldPeriod s
  | .deferredCloseApply valve => Sys2Proof.Machine.execDeferredCloseApply valve s
  | .colourPeriod => Sys2Proof.Machine.execColourPeriod s
  | .senseLevelChange input high => Sys2Proof.Machine.execSenseLevelChange input high s
  | .debounceTimerExpiry input => Sys2Proof.Machine.execDebounceTimerExpiry input s
  | .windInRising => Sys2Proof.Machine.execWindInRising s
  | .windGateExpiry => Sys2Proof.Machine.execWindGateExpiry s
  | .resetAssert => Sys2Proof.Machine.execResetAssert s
  | .resetRelease straps senses => Sys2Proof.Machine.execResetRelease straps senses s

end Sys2Proof.Machine
end

