-- ==== Sys2Proof/Machine/Step.lean ====
section
/-! DEFINITION. The step: the command at the front of the queue is taken; on an empty queue the block idles. -/

namespace Sys2Proof.Machine

/-- One step: the command at the front of the queue is executed with the queue's rest; with none waiting nothing happens
(DESIGN CHOICE, log entry 7: periods and timers come as commands of their own rows, so an empty queue does nothing). -/
def step (s : State) : Host.Outcome State Fault Refusal :=
  match s.pending with
  | [] => .next s
  | c :: rest => exec c (s.setPending rest)

/-- The state with the command a table word spells put at the front of its queue; no row of the table gives bits, so no word
spells one. -/
def State.withFetchWord (s : State) (nbits w : Nat) : State :=
  match decodeTableWord nbits w with
  | some c => s.setPending (c :: s.pending)
  | none => s

end Sys2Proof.Machine
end

