-- ==== Sys2Proof/Safety.lean ====
section
/-! DEFINITION. What the claims mean by a sound state: the whole-machine rules of the manual, each a predicate of one state.
The manual states them of every moment of a run; each is an invariant of the model's step, alone or with the ones it is
grouped with in the statements. After them stands the vocabulary of the claims about one command: completing, and what a
command leaves as it was. -/

namespace Sys2Proof.Machine

/-- The show is in IDLE or TRIPPED, at rest. -/
def ShowState.resting (x : ShowState) : Bool :=
  match x with
  | .idle | .tripped => true
  | .priming | .armed | .running | .starved | .held | .winddown => false

/-! ## Water -/

/-- R99: every deferred valve is applied open and wanted closed, no other valve differs between the images, and a valve
wanted open is applied open. -/
abbrev ImagesSound (s : State) : Prop :=
  s.wu.deferred = s.wu.applied &&& ~~~ s.wu.wanted ∧ s.wu.wanted &&& ~~~ s.wu.applied = 0

/-- R100, R110, R112: with no show to command the water, every pump is commanded to 0 and every valve wanted closed. -/
abbrev NothingAsked (s : State) : Prop :=
  s.sq.state.live = false → s.wu.wanted = 0 ∧ ∀ p : Fin 16, s.wu.commanded[p] = 0

/-- R112: in IDLE and TRIPPED every pump output speed is zero and every valve in the applied image is closed. -/
abbrev RestSound (s : State) : Prop :=
  s.sq.state.resting = true → s.wu.applied = 0 ∧ ∀ p : Fin 16, s.wu.output[p] = 0

/-- R2, R158, R93: a limit operation runs only in IDLE or TRIPPED, and a show runs only on a VALID table. -/
abbrev LimitsSound (s : State) : Prop :=
  (s.ls.operation.isSome = true → s.sq.state.resting = true) ∧
  (s.sq.state.resting = false → s.ls.tableState = .valid)

/-- R102: every pump above its idle speed has at least its min-open count of header valves applied open. -/
abbrev HeadersSound (s : State) : Prop :=
  ∀ p : Fin 16, aboveIdle s p = true → s.ls.table.minOpen p ≤ headerCount s.ls.table p s.wu.applied

/-- R106: no pump's output speed exceeds the max speed in the limit table. -/
abbrev SpeedsSound (s : State) : Prop := ∀ p : Fin 16, s.wu.output[p] ≤ s.ls.table.maxSpeed p

/-- The rules of the water together, with the ones they rest on. -/
structure WaterSound (s : State) : Prop where
  images : ImagesSound s
  asked : NothingAsked s
  rest : RestSound s
  limits : LimitsSound s
  headers : HeadersSound s
  speeds : SpeedsSound s

/-! ## Show -/

/-- R13: the show is in HELD exactly while its hold reasons are not empty. -/
abbrev HoldsSound (s : State) : Prop :=
  s.sq.state = .held ↔ (s.sq.holdHost = true ∨ s.sq.holdInterlock = true)

/-- R21, R22: the fault record is empty but in TRIPPED and fault wind-down, where it has a first cause. -/
abbrev RecordSound (s : State) : Prop :=
  if s.sq.state = .tripped ∨ (s.sq.state = .winddown ∧ s.sq.kind = .fault) then s.sq.faultRecord.first.isSome = true
  else s.sq.faultRecord = FaultRecord.empty

/-- R12, R72: the frame clock runs exactly outside IDLE and TRIPPED. -/
abbrev ClockSound (s : State) : Prop := s.au.clock.isSome = !s.sq.state.resting

/-- R57, R58: the release table holds at most 512 entries, in nondecreasing order of due position. -/
abbrev TableSound (s : State) : Prop :=
  s.sq.table.length ≤ Config.releaseCapacity ∧ s.sq.table.Pairwise (fun a b => a.due ≤ b.due)

/-- R23, R3: outside a live show the release table is empty. -/
abbrev TableEmptySound (s : State) : Prop := s.sq.state.live = false → s.sq.table = []

/-- The next command brings an advance: the clock runs, the position can rise, and a frame period comes next that takes a
frame or finds the ring drained in RUNNING, or in which a STARVED show resumes (R7, R8, R10). -/
abbrev AdvanceNext (s : State) : Prop :=
  let drained := s.fu.final = true ∧ s.fu.audioFetch = s.fu.audioMark
  let next := s.pending.head?
  s.au.clock.isSome = true ∧ s.sq.position ≠ 0xFFFFFFFF ∧
  ((s.sq.state = .running ∧ (s.au.fifo ≠ [] ∨ drained) ∧ next = some .framePeriod) ∨
    (s.sq.state = .starved ∧ (64 ≤ s.au.fifo.length ∨ drained) ∧
      (next = some .framePeriod ∨ next = some .starvedResume)))

/-- R51: a run is divided only while the advance that divides it comes next and its next record stands at the head of the
buffer, unexamined and free to be. -/
abbrev RunSound (s : State) : Prop :=
  s.sq.runDivided = true →
    s.sq.state.live = true ∧ s.sq.headAccepted = false ∧ s.fu.cueBlocked = false ∧ s.fu.cueBuffer ≠ [] ∧ AdvanceNext s

/-! ## Rings, FIFO and buffer -/

/-- R36, R40, R74: a burst on the port reads published slots from its ring's fetch index and has room for its data, unless
it is void. -/
def burstSound (s : State) : Port → Prop
  | .free => True
  | .processor _ => True
  | .fetch b =>
    b.void = true ∨
    match b.kind with
    | .cue slot => slot = s.fu.cueFetch ∧ 1 ≤ cuePublished s.fu ∧ s.fu.cueBuffer.length < Config.cueBufferCapacity
    | .audio slot two =>
      slot = s.fu.audioFetch ∧ (if two then 2 else 1) ≤ audioPublished s.fu ∧
      s.au.fifo.length + (if two then 2 else 1) ≤ Config.fifoCapacity

/-- The burst on the port, if any, is void. -/
def Port.voidOrIdle : Port → Bool
  | .free | .processor _ => true
  | .fetch b => b.void

/-- R40, R74, R75: the FIFO and the cue buffer keep within their capacities, and in IDLE and TRIPPED both are empty and a
burst still in flight is void. -/
structure QueuesSound (s : State) : Prop where
  fifo : s.au.fifo.length ≤ Config.fifoCapacity
  buffer : s.fu.cueBuffer.length ≤ Config.cueBufferCapacity
  burst : burstSound s s.pu.port
  resting : s.sq.state.resting = true → s.au.fifo = [] ∧ s.fu.cueBuffer = [] ∧ s.pu.port.voidOrIdle = true
  request : s.fu.fetchRequest = true → s.sq.state.live = true

/-! ## Music and light -/

/-- R71, R83, R87: a monitor's frames counted stay below its window length, and are 0 while it is off. -/
abbrev windowSound (m : Monitor) : Prop := if m.window = 0 then m.counted = 0 else m.counted < m.window

/-- R83: a muted channel's monitor counts nothing and its stored results are 0. -/
abbrev mutedSound (m : Monitor) : Prop :=
  m.counted = 0 ∧ m.peak = 0 ∧ m.count = 0 ∧ m.storedPeak = 0 ∧ m.storedCount = 0

/-- R71, R83, R87 for all four monitors. -/
abbrev MonitorsSound (s : State) : Prop :=
  ∀ c : Fin 4, windowSound s.au.monitors[c] ∧ (isMuted s c = true → mutedSound s.au.monitors[c])

/-- R143: the light unit's latest peak for a channel equals the stored peak of its monitor, and every bound group carries
the latest peak of its channel as its scale. -/
abbrev PeaksSound (s : State) : Prop :=
  (∀ c : Fin 4, s.lu.latestPeak[c] = s.au.monitors[c].storedPeak) ∧
  ∀ (g : Fin 64) (c : Fin 4), s.lu.groups[g].follow = some c → s.lu.groups[g].scale = s.lu.latestPeak[c]

/-! ## Interlocks -/

/-- R117, R123: the latched entries are the matched entries that are latching. -/
abbrev LatchesSound (s : State) : Prop := s.gu.latched = s.gu.matched &&& latchingSet s

/-- R123: out of reset, an entry that is not latching is matched exactly while its pattern holds. -/
abbrev MatchesSound (s : State) : Prop :=
  s.inReset = false → ∀ e : Fin 8, s.ls.table.latching e = false → s.gu.matched.getLsbD e = entryHolds s none e

/-! ## Memory, attention and reset -/

/-- The external memory is in canonical form. -/
abbrev MemorySound (s : State) : Prop := Memory.wf s.mem

/-- R186: ATTN_N is asserted exactly while the pending set and the enable set have a cause in common. -/
abbrev AttentionSound (s : State) : Prop := s.ru.attention = true ↔ s.ru.pending &&& s.ru.enable ≠ 0

/-- R34: the fetch request is raised exactly while the fetch unit may fetch and a burst is possible. -/
abbrev RequestSound (s : State) : Prop := s.fu.fetchRequest = wantsFetch s

/-- R153: out of reset, the table state held is the one worked out from the table. -/
abbrev TableStateSound (s : State) : Prop := s.inReset = false → s.ls.tableState = s.ls.table.state

/-- R175: while RESET_N is asserted the blocks stand at their reset values. -/
abbrev ResetSound (s : State) : Prop :=
  s.inReset = true →
    s.sq = Sequencer.reset ∧ s.fu = FetchUnit.reset ∧ s.au = AudioUnit.reset ∧ s.wu = WaterUnit.reset ∧
    s.lu = LightUnit.reset ∧ s.ru = ReportUnit.reset ∧
    s.gu = { GuardUnit.reset with raw := s.gu.raw, debounced := s.gu.debounced } ∧
    s.ls.operation = none ∧ s.pu.refusedCount = 0 ∧ s.pu.lastRefused = 0 ∧ s.pu.waitCount = 0 ∧
    s.pu.carried = false ∧ s.pu.port.fetching = false

/-- R174: the wait count is 0 unless the fetch request stands. -/
abbrev WaitSound (s : State) : Prop := s.fu.fetchRequest = false → s.pu.waitCount = 0

/-- A grant that is due is due to those still waiting. -/
def dueStands (s : State) : Bool :=
  match s.pu.arbiter with
  | .due claim => claimStands s claim
  | .busy | .idle => true

/-- R173: the arbiter is busy exactly while the port is granted; it is idle only when no one waits, and a grant is due only
to those still waiting. -/
abbrev ArbiterSound (s : State) : Prop :=
  (s.pu.port = .free ↔ s.pu.arbiter ≠ .busy) ∧
  (s.pu.arbiter = .idle → s.pu.waiting = [] ∧ s.fu.fetchRequest = false) ∧
  dueStands s = true

/-! ## Protected slots (R42, R172) -/

/-- The word at an address lies in a published, unfetched ring slot. -/
def protectedWord (s : State) (a : WordAddr) : Bool :=
  inWindow s.pu.base a && protectedOffset s.fu (windowOffset a)

/-- The words of a transaction that is to write memory. -/
def Transaction.words : Transaction → List BusWord
  | .write ws => ws
  | .read _ => []

/-- No word that is on its way to memory with an enable asserted lies in a published slot, and nothing is published while a
burst presented before the release of RESET_N is still coming (R175). -/
abbrev WaitingSound (s : State) : Prop :=
  (∀ w ∈ s.pu.waiting.flatMap Transaction.words ++ s.pu.assembling, w.enables ≠ 0 → protectedWord s w.address = false) ∧
  (s.pu.carried = true → s.pu.assembling ≠ [] ∧ cuePublished s.fu = 0 ∧ audioPublished s.fu = 0)

/-! ## The writes that rows stand for (R171, R187) -/

/-- A full write of a value at a window offset. -/
def fullWrite (base : BitVec 6) (offset : Nat) (value : Word) (burst : Bool) : BusWrite :=
  { address := windowWord base offset, data := value, enables := 15, burst := burst }

/-- The write on the bus that a row stands for, with the level of PROG_EN it is taken under; none for a row that is no
write. -/
def busWriteOf (base : BitVec 6) : Instr → Option (BusWrite × Bool)
  | .start b => some (fullWrite base Config.showCmd 0x01 b, false)
  | .stop b => some (fullWrite base Config.showCmd 0x02 b, false)
  | .hold b => some (fullWrite base Config.showCmd 0x03 b, false)
  | .step b => some (fullWrite base Config.showCmd 0x04 b, false)
  | .proceed b => some (fullWrite base Config.showCmd 0x05 b, false)
  | .ringReset b => some (fullWrite base Config.showCmd 0x06 b, false)
  | .ambient b => some (fullWrite base Config.showCmd 0x07 b, false)
  | .cueResync b => some (fullWrite base Config.showCmd 0x08 b, false)
  | .releaseInterlocks b => some (fullWrite base Config.showCmd 0x09 b, false)
  | .mute b => some (fullWrite base Config.showCmd 0x0A b, false)
  | .monitor b => some (fullWrite base Config.showCmd 0x0B b, false)
  | .spaceTriggers b => some (fullWrite base Config.showCmd 0x0C b, false)
  | .clearCounts b => some (fullWrite base Config.showCmd 0x0D b, false)
  | .showCmdUnknownCode code b => some (fullWrite base Config.showCmd code b, false)
  | .showCmdPartialWrite data enables b =>
    some ({ address := windowWord base Config.showCmd, data := data, enables := enables, burst := b }, false)
  | .showArgWrite i value b => some (fullWrite base (Config.showArg + 4 * i.val) value b, false)
  | .cueMarkWrite value b => some (fullWrite base Config.cueMark value b, false)
  | .audioMarkWrite value b => some (fullWrite base Config.audioMark value b, false)
  | .attnEnableWrite value b => some (fullWrite base Config.attnEnable value b, false)
  | .attnClearWrite value b => some (fullWrite base Config.attnClear value b, false)
  | .stagingWordWrite i value b => some (fullWrite base (Config.stagingBase + 4 * i.val) value b, false)
  | .programRow row upper p b =>
    some (fullWrite base Config.limitCmd (limitWord upper (BitVec.ofNat 8 row.val) 0x01) b, p)
  | .eraseAll rowField upper p b => some (fullWrite base Config.limitCmd (limitWord upper rowField 0x02) b, p)
  | .setLock rowField upper p b => some (fullWrite base Config.limitCmd (limitWord upper rowField 0x03) b, p)
  | .clearStaging rowField upper p b => some (fullWrite base Config.limitCmd (limitWord upper rowField 0x04) b, p)
  | .limitCmdUnknownCode word p b => some (fullWrite base Config.limitCmd word b, p)
  | .processorWrite w p => some (w, p)
  | .causeWordRead _ | .programRowCompletion _ | .eraseAllCompletion | .setLockCompletion | .arbiterGrant _
  | .processorTransactionEnd | .fetchBurstCompletion | .primingComplete | .waitingRecordExpansion | .syncInRising
  | .framePeriod | .starvedResume | .starveLimit | .winddownCompletion | .windowEnd _ | .fieldPeriod
  | .deferredCloseApply _ | .colourPeriod | .senseLevelChange _ _ | .debounceTimerExpiry _ | .windInRising
  | .windGateExpiry | .resetAssert | .resetRelease _ _ => none

/-- Two word addresses lie in one aligned place of four words. -/
abbrev samePlace (a b : WordAddr) : Prop := a.extractLsb' 2 22 = b.extractLsb' 2 22

/-- The memory controller presents one transaction at a time (R168): a written word comes when no transaction is waiting for
the port, and a burst's words come with no other word between them. -/
def oneAtATime (s : State) (c : Instr) : Prop :=
  ∀ w p, busWriteOf s.pu.base c = some (w, p) →
    s.pu.waiting = [] ∧ ∀ x ∈ s.pu.assembling, w.burst = true ∧ samePlace x.address w.address

/-! ## Completion and frames -/

/-- A command answers a next state that has a property. -/
def Completes (c : Instr) (s : State) (P : State → Prop) : Prop := ∃ t : State, exec c s = .next t ∧ P t

/-- Every byte of the external memory reads as before. -/
def MemoryKept (s t : State) : Prop := ∀ a : Nat, Memory.read t.mem a = Memory.read s.mem a

/-- Written words are decided against the window: RESET_N is not asserted, and a burst still coming was presented after its
release (R175). -/
abbrev PathDecides (burst : Bool) (s : State) : Prop := s.inReset = false ∧ (burst = true → s.pu.carried = false)

/-- The path unit is as before, but for the wait count and the arbiter, which follow those waiting for the port (R173,
R174). -/
def PathKept (s t : State) : Prop :=
  t.pu = { s.pu with waitCount := t.pu.waitCount, arbiter := t.pu.arbiter }

/-- The fetch unit is as before, but for its request, which follows the state (R34). -/
def FetchKept (s t : State) : Prop := t.fu = { s.fu with fetchRequest := t.fu.fetchRequest }

/-- The report unit is as before, but for ATTN_N, which follows the two sets (R186). -/
def ReportKept (s t : State) : Prop := t.ru = { s.ru with attention := t.ru.attention }

/-- The report unit is as before, but for ATTN_N and one cause raised (R182). -/
def ReportRaised (c : Cause) (s t : State) : Prop :=
  t.ru = { s.ru with pending := bitInsert s.ru.pending c.bit, attention := t.ru.attention }

/-- The report unit is as before, but for ATTN_N and the result record (R178). -/
def Recorded (code : Word) (outcome : CommandOutcome) (s t : State) : Prop :=
  t.ru = { s.ru with code := code, outcome := outcome, attention := t.ru.attention }

/-- The path unit has forwarded a written word as it stands, and is otherwise as before (R168, R169). -/
def Forwarded (w : BusWrite) (s t : State) : Prop :=
  t.pu = { (pushWord w false s).pu with waitCount := t.pu.waitCount, arbiter := t.pu.arbiter }

/-- The path unit has forwarded a full write of a value at a window offset, and is otherwise as before. -/
def Posted (offset : Nat) (value : Word) (burst : Bool) (s t : State) : Prop :=
  Forwarded (fullWrite s.pu.base offset value burst) s t

/-- Water, light, guard and limits are as before. -/
def PlantKept (s t : State) : Prop := t.wu = s.wu ∧ t.lu = s.lu ∧ t.gu = s.gu ∧ t.ls = s.ls

/-- Sequencer and music are as before. -/
def ShowKept (s t : State) : Prop := t.sq = s.sq ∧ t.au = s.au

/-- RESET_N and the external memory are as before. -/
def GroundKept (s t : State) : Prop := t.inReset = s.inReset ∧ MemoryKept s t

/-- A command has done nothing: everything is as before. -/
def NothingDone (s t : State) : Prop :=
  ShowKept s t ∧ PlantKept s t ∧ GroundKept s t ∧ FetchKept s t ∧ PathKept s t ∧ ReportKept s t

/-- A show command has been refused: nothing but the result record and the posted write has changed (R178). -/
def ShowRefused (code : Word) (burst : Bool) (outcome : CommandOutcome) (s t : State) : Prop :=
  ShowKept s t ∧ PlantKept s t ∧ GroundKept s t ∧ FetchKept s t ∧ Posted Config.showCmd code burst s t ∧
  Recorded code outcome s t

/-! ## Examined records (R51 to R61) -/

/-- An action's release entry, for a record and the sequencer it is inserted under (R48, R55, R56, R61). -/
def entryFor (x : Sequencer) (r : CueRecord) (a : Action) : ReleaseEntry :=
  { due := dueOf x r.word1 a
    action := a
    source := r.word0.extractLsb' 0 8
    late := decide (dueOf x r.word1 a < x.position) }

/-- The sequencer after a record has gone whole into its release table: each entry stands after every entry due at or below
its due and before the others, and the late ones are counted (R58, R59, R61). -/
def withEntries (x : Sequencer) (r : CueRecord) (acts : List Action) : Sequencer :=
  { x with
    table := acts.foldl (fun table a =>
      table.takeWhile (fun e => decide (e.due ≤ (entryFor x r a).due)) ++
        entryFor x r a :: table.dropWhile (fun e => decide (e.due ≤ (entryFor x r a).due))) x.table
    lateCount := saturate16 x.lateCount (acts.countP (fun a => (entryFor x r a).late)) }

/-- What the examination of a head record leaves: the sequencer, the records it leaves in the buffer, the expected sequence,
whether the stream is blocked, and whether CUE is raised. -/
structure Examined where
  sq : Sequencer
  buffer : List CueRecord
  expected : Byte
  blocked : Bool
  raised : Bool

/-- The examination of a head record that is alone in the buffer and has not been accepted, under an expected number. Another
number blocks the stream (R52); a cue error is consumed and counted (R49); a sound record is expanded when the table has room
for all its entries, and waits at the head with its marker set when it has not (R59). -/
def examinedHead (x : Sequencer) (expected : Byte) (r : CueRecord) : Examined :=
  let found : Sequencer := { x with foundSequence := r.sequence }
  if r.sequence ≠ expected then
    { sq := found, buffer := [r], expected := expected, blocked := true, raised := true }
  else
    match r.actions with
    | none =>
      { sq := { found with cueErrorCount := saturate16 x.cueErrorCount 1 }
        buffer := [], expected := r.sequence + 1, blocked := false, raised := true }
    | some acts =>
      if x.table.length + acts.length ≤ 512 then
        { sq := withEntries found r acts, buffer := [], expected := r.sequence + 1, blocked := false, raised := false }
      else
        { sq := { found with headAccepted := true }
          buffer := [r], expected := r.sequence + 1, blocked := false, raised := false }

/-! ## Fields and check codes bit by bit (R189, section 11.5) -/

/-- The bits of a field of some width, most significant first. -/
def msbFirst (width value : Nat) : List Bool := (List.range width).map (fun k => value.testBit (width - 1 - k))

/-- The bits of a byte, least significant first. -/
def lsbFirst (b : Byte) : List Bool := (List.range 8).map b.getLsbD

/-- One bit taken into the register of a check code with a polynomial (R189). -/
def crcTake {w : Nat} (polynomial : BitVec w) (register : BitVec w) (bit : Bool) : BitVec w :=
  (register <<< 1) ^^^ (if register.msb != bit then polynomial else 0)

/-- The CRC-16 of some bits, in the order they are taken (R189). -/
def crc16Bits (bits : List Bool) : Half := bits.foldl (crcTake 0x1021) 0xFFFF

/-- The CRC-32 of some bits, in the order they are taken, its result reflected and inverted (R189). -/
def crc32Bits (bits : List Bool) : Word := (bits.foldl (crcTake 0x04C11DB7) 0xFFFFFFFF).reverse ^^^ 0xFFFFFFFF

/-! ## Completed wind-down (R25) -/

/-- Every light group has finished its fade. -/
abbrev FadesDone (x : LightUnit) : Prop :=
  ∀ g : Fin 64, x.groups[g].fade = 0 ∧ x.groups[g].current = x.groups[g].target

/-- Every pump's output speed is 0 and every valve is applied closed. -/
abbrev WaterDone (x : WaterUnit) : Prop := (∀ p : Fin 16, x.output[p] = 0) ∧ x.applied = 0

/-- The wind-down of a sequencer has completed: FIFO and cue buffer emptied, the burst in flight void, the clock stopped, and
the show IDLE after a normal wind-down and TRIPPED after a fault wind-down; the audio lines are low (R25, R39, R90). -/
def WinddownEnded (x : Sequencer) (s t : State) : Prop :=
  t.sq = { x with
    state := (match x.kind with | .normal => .idle | .fault => .tripped), headAccepted := false } ∧
  t.au = { s.au with fifo := [], clock := none, lines := .heldLow } ∧
  (∀ half : Fin 64, t.au.lines.levels half = { abck := false, afck := false, ad0 := false, ad1 := false }) ∧
  t.fu = { s.fu with cueBuffer := [], fetchRequest := t.fu.fetchRequest } ∧
  t.pu = { s.pu with port := s.pu.port.voided, waitCount := t.pu.waitCount, arbiter := t.pu.arbiter }

end Sys2Proof.Machine
end

