-- ==== Sys2Proof/WellFormed.lean ====
section
/-! DEFINITION. Which commands are what their row says: the codes a row excludes, the byte enables of a partial write and
of a read, and the alignment of a burst. -/

namespace Sys2Proof

/-- The word is one of the thirteen show command codes of R187. -/
def namesShowCommand (code : Word) : Bool := decide (1 ≤ code.toNat ∧ code.toNat ≤ 13)

/-- The word passes test 2 of R158: its low byte is one of the four codes, and for PROGRAM_ROW its row field is 0 to 31
(R187). -/
def lawfulLimitWord (word : Word) : Bool :=
  let code := (word.extractLsb' 0 8).toNat
  let row := (word.extractLsb' 8 8).toNat
  decide ((code = 1 ∧ row ≤ 31) ∨ code = 2 ∨ code = 3 ∨ code = 4)

/-- A read of one word has the byte enables of that word alone (R168). -/
def ReadForm.wellFormed (f : ReadForm) : Bool := f.burst || decide (f.enables.extractLsb' 4 12 = 0)

/-- A read is aligned if it is a burst (R168). -/
def BusRead.wellFormed (r : BusRead) : Bool :=
  r.toReadForm.wellFormed && (!r.burst || decide (r.address.extractLsb' 0 2 = 0))

/-- A command is what its row says. Rows whose operands admit every value have no check. -/
def WellFormed : Instr → Bool
  | .showCmdUnknownCode code _ => !namesShowCommand code
  | .showCmdPartialWrite _ enables _ => decide (enables ≠ 0 ∧ enables ≠ 15)
  | .limitCmdUnknownCode word _ _ => !lawfulLimitWord word
  | .arbiterGrant input => input.arriving.all BusRead.wellFormed
  | .causeWordRead form => form.wellFormed
  | .start _ | .stop _ | .hold _ | .step _ | .proceed _ | .ringReset _ | .ambient _ | .cueResync _ => true
  | .releaseInterlocks _ | .mute _ | .monitor _ | .spaceTriggers _ | .clearCounts _ => true
  | .showArgWrite _ _ _ | .cueMarkWrite _ _ | .audioMarkWrite _ _ | .attnEnableWrite _ _ | .attnClearWrite _ _ => true
  | .stagingWordWrite _ _ _ => true
  | .programRow _ _ _ _ | .eraseAll _ _ _ _ | .setLock _ _ _ _ | .clearStaging _ _ _ _ => true
  | .programRowCompletion _ | .eraseAllCompletion | .setLockCompletion => true
  | .processorWrite _ _ | .processorTransactionEnd | .fetchBurstCompletion => true
  | .primingComplete | .waitingRecordExpansion | .syncInRising | .framePeriod | .starvedResume => true
  | .starveLimit | .winddownCompletion | .windowEnd _ => true
  | .fieldPeriod | .deferredCloseApply _ | .colourPeriod => true
  | .senseLevelChange _ _ | .debounceTimerExpiry _ | .windInRising | .windGateExpiry => true
  | .resetAssert | .resetRelease _ _ => true

end Sys2Proof
end

