-- ==== Sys2Proof/Certificates/Slice0/Obligations.lean ====
section
/-! DEFINITION. The statements for the provers. Each is a claim about the model that the manual's rules make; a clause that
rests on a choice of the model says so and names its log entry. -/

open Sys2Proof Sys2Proof.Machine

/-! ## The machine -/

/-- A step takes the command at the front of the queue and executes it with the queue's rest. With an empty queue nothing
happens (the model's choice, log entry 7). -/
def Obligations.StepTakesFrontCommand : Prop :=
  (∀ (c : Instr) (rest : List Instr) (s : State), s.pending = c :: rest → step s = exec c (s.setPending rest)) ∧
  ∀ s : State, s.pending = [] → step s = .next s

/-- Every command of every operand answers a next state in every state, and leaves the queue of commands as it was: no rule
of the manual stops the part. -/
def Obligations.EveryCommandCompletes : Prop :=
  ∀ (c : Instr) (s : State), Completes c s fun t => t.pending = s.pending

/-- A row that is a write does what the bus decode makes of that write at its offset (R171, R187). -/
def Obligations.RowsAreBusWrites : Prop :=
  ∀ (c : Instr) (s : State) (w : BusWrite) (progEn : Bool), busWriteOf s.pu.base c = some (w, progEn) →
    exec c s = exec (.processorWrite w progEn) s

/-! ## The memory path -/

/-- A written word is forwarded outside the window, in ordinary memory, in a ring slot that is not published, and in the
command page at a word that is not defined; while RESET_N is asserted, with no enable asserted, and as a word of a burst
presented before the release of RESET_N, at any address. A single word then waits for the port as it stands, a word of a burst
waits with the words of its burst until the last, and nothing else of the part changes. -/
def Obligations.ForwardedWordIsPosted : Prop :=
  ∀ (s : State) (w : BusWrite) (progEn : Bool),
    (s.inReset = true ∨ (w.burst = true ∧ s.pu.carried = true) ∨ w.enables = 0 ∨ inWindow s.pu.base w.address = false ∨
      (0x04040 ≤ windowOffset w.address ∧ protectedOffset s.fu (windowOffset w.address) = false) ∨
      (windowOffset w.address < 0x01000 ∧ windowOffset w.address ∉
        [0x000, 0x004, 0x008, 0x00C, 0x040, 0x044, 0x080, 0x0C0, 0x0C4])) →
    Completes (.processorWrite w progEn) s fun t =>
      ShowKept s t ∧ PlantKept s t ∧ GroundKept s t ∧ FetchKept s t ∧ ReportKept s t ∧
      let word : BusWord := { address := w.address, data := w.data, enables := w.enables, refused := false }
      (w.burst = false →
        t.pu = { s.pu with
          waitCount := t.pu.waitCount, arbiter := t.pu.arbiter, waiting := s.pu.waiting ++ [.write [word]] }) ∧
      (w.burst = true → w.address.extractLsb' 0 2 ≠ 3 →
        t.pu = { s.pu with
          waitCount := t.pu.waitCount, arbiter := t.pu.arbiter, assembling := s.pu.assembling ++ [word] }) ∧
      (w.burst = true → w.address.extractLsb' 0 2 = 3 →
        t.pu = { s.pu with
          waitCount := t.pu.waitCount, arbiter := t.pu.arbiter
          waiting := s.pu.waiting ++ [.write (s.pu.assembling ++ [word])]
          assembling := [], carried := false })

/-- A written word with an enable asserted is refused in the status page, in the limit view and in a published ring slot:
counted, its address recorded, REFUSED raised, and memory and everything else as before. A single refused word does not wait
for the port. A refused word of a burst goes on with its burst, its enables deasserted; at the last word the burst waits for the
port, unless every word of it was refused. -/
def Obligations.RefusedWordIsCounted : Prop :=
  ∀ (s : State) (w : BusWrite) (progEn : Bool), PathDecides w.burst s → w.enables ≠ 0 →
    inWindow s.pu.base w.address = true →
    (0x01000 ≤ windowOffset w.address ∧ windowOffset w.address < 0x04000 ∨
      protectedOffset s.fu (windowOffset w.address) = true) →
    Completes (.processorWrite w progEn) s fun t =>
      ShowKept s t ∧ PlantKept s t ∧ GroundKept s t ∧ FetchKept s t ∧ ReportRaised .refused s t ∧
      t.pu.refusedCount.toNat = min 65535 (s.pu.refusedCount.toNat + 1) ∧
      t.pu.lastRefused = w.address.toAddr ∧
      t.pu.base = s.pu.base ∧ t.pu.port = s.pu.port ∧ t.pu.readData = s.pu.readData ∧ t.pu.carried = s.pu.carried ∧
      let word : BusWord := { address := w.address, data := w.data, enables := 0, refused := true }
      (w.burst = false → t.pu.waiting = s.pu.waiting ∧ t.pu.assembling = s.pu.assembling) ∧
      (w.burst = true → w.address.extractLsb' 0 2 ≠ 3 →
        t.pu.waiting = s.pu.waiting ∧ t.pu.assembling = s.pu.assembling ++ [word]) ∧
      (w.burst = true → w.address.extractLsb' 0 2 = 3 → t.pu.assembling = [] ∧
        ((∀ x ∈ s.pu.assembling, x.refused = true) → t.pu.waiting = s.pu.waiting) ∧
        ((∃ x ∈ s.pu.assembling, x.refused = false) →
          t.pu.waiting = s.pu.waiting ++ [.write (s.pu.assembling ++ [word])]))

/-- Who is waiting when the port is to be granted is found as the port becomes free, and, at a free port, as requesters arrive;
a grant once due stays due unless its request is withdrawn. The grant follows the table of R173: to no one when nothing waits,
to the processor when it alone waits, to the processor with the wait count one higher when both wait and the count is below 8,
and to the fetch unit, with the count set to 0, when it alone waits or the count is 8. Of two that arrive together at a free
port either may be taken first and is granted at once, with no count for the other: which it is comes with the command, and so
does the moment of a grant that is due (the model's choice, log entry 19). The burst granted to the fetch unit is the first of
the three places of R35 that is possible, with the slots of R36. A forwarded read that arrives at a free port with nothing
waiting is granted, and at a busy port it waits. -/
def Obligations.GrantFollowsTable : Prop :=
  (∀ (c : Instr) (s t : State), ArbiterSound s → exec c s = .next t →
    let found := fun (contest : Claim) =>
      if t.pu.waiting = [] then (if t.fu.fetchRequest then Arbiter.due .fetch else .idle)
      else if t.fu.fetchRequest then .due contest else .due .processor
    (t.pu.port ≠ .free → t.pu.arbiter = .busy) ∧
    (t.pu.port = .free → s.pu.port ≠ .free → t.pu.arbiter = found .both) ∧
    (t.pu.port = .free → s.pu.arbiter = .idle → t.pu.arbiter = found .together) ∧
    (∀ claim, t.pu.port = .free → s.pu.arbiter = .due claim →
      t.pu.arbiter = if claimStands t claim = true then .due claim else found .both)) ∧
  (∀ (s : State) (fetchFirst : Bool), RequestSound s → s.pu.port = .free →
    let grant : Instr := .arbiterGrant { arriving := none, fetchFirst := fetchFirst }
    let granted := fun (port : Port) (rest : List Transaction) (count : Fin 9) (t : State) =>
      t.pu = { s.pu with port := port, waiting := rest, waitCount := count, arbiter := .busy } ∧
      ShowKept s t ∧ PlantKept s t ∧ FetchKept s t ∧ ReportKept s t ∧ t.inReset = s.inReset
    let toFetch := fun (t : State) =>
      let two := decide (s.fu.audioFetch.val % 2 = 0) && decide (2 ≤ audioPublished s.fu)
      let kind : BurstKind :=
        if s.au.fifo.length < 256 ∧ 1 ≤ audioPublished s.fu then .audio s.fu.audioFetch two
        else if s.fu.cueBuffer.length < 4 ∧ 1 ≤ cuePublished s.fu ∧ s.fu.cueBlocked = false then .cue s.fu.cueFetch
        else .audio s.fu.audioFetch two
      granted (.fetch { kind := kind, void := false }) s.pu.waiting 0 t ∧ GroundKept s t
    (s.pu.arbiter = .idle → Completes grant s fun t => NothingDone s t ∧ t.pu.waitCount = s.pu.waitCount) ∧
    (∀ x rest, s.pu.arbiter = .due .processor → s.pu.waiting = x :: rest →
      Completes grant s (granted (.processor x) rest s.pu.waitCount)) ∧
    (s.pu.arbiter = .due .fetch → s.fu.fetchRequest = true → Completes grant s toFetch) ∧
    (∀ x rest, s.pu.arbiter = .due .both → s.pu.waiting = x :: rest → s.fu.fetchRequest = true →
      (s.pu.waitCount ≠ 8 → Completes grant s (granted (.processor x) rest (s.pu.waitCount + 1))) ∧
      (s.pu.waitCount = 8 → Completes grant s toFetch)) ∧
    (∀ x rest, s.pu.arbiter = .due .together → s.pu.waiting = x :: rest → s.fu.fetchRequest = true →
      (fetchFirst = false → Completes grant s (granted (.processor x) rest s.pu.waitCount)) ∧
      (fetchFirst = true → Completes grant s toFetch))) ∧
  ∀ (s : State) (r : BusRead) (fetchFirst : Bool), answeredWord s r.address = none →
    let arrives : Instr := .arbiterGrant { arriving := some r, fetchFirst := fetchFirst }
    (RequestSound s → s.pu.port = .free → s.pu.arbiter = .idle → s.pu.waiting = [] → s.fu.fetchRequest = false →
      Completes arrives s fun t =>
        t.pu = { s.pu with port := .processor (.read r), arbiter := .busy } ∧
        ShowKept s t ∧ PlantKept s t ∧ FetchKept s t ∧ ReportKept s t ∧ GroundKept s t) ∧
    (s.pu.port ≠ .free → Completes arrives s fun t =>
      t.pu = { s.pu with
        waiting := s.pu.waiting ++ [.read r], waitCount := t.pu.waitCount, arbiter := t.pu.arbiter } ∧
      ShowKept s t ∧ PlantKept s t ∧ FetchKept s t ∧ ReportKept s t ∧ GroundKept s t)

/-- At its grant, whether or not the fetch request stands, a posted write's data goes to memory: every byte whose enable is
asserted takes the word's byte, and every other byte of memory reads as before. A forwarded read that is granted changes no
byte. The end of the processor transaction on the port frees the port; a read's words, of one address or of its aligned burst,
are returned as memory holds them, whatever its byte enables. That data moves at the grant and at the end, and that memory
returns whole words, is the model's choice (log entry 10). -/
def Obligations.GrantedTransactionRuns : Prop :=
  (∀ (s : State) (x : Transaction) (rest : List Transaction) (fetchFirst : Bool), MemorySound s → s.pu.port = .free →
    s.pu.waiting = x :: rest →
    (s.pu.arbiter = .due .processor ∨ (s.pu.arbiter = .due .both ∧ s.pu.waitCount ≠ 8) ∨
      (s.pu.arbiter = .due .together ∧ fetchFirst = false)) →
    Completes (.arbiterGrant { arriving := none, fetchFirst := fetchFirst }) s fun t =>
      t.pu.port = .processor x ∧
      (∀ a : Nat, (∀ w ∈ x.words, ∀ k < 4, w.enables.getLsbD k = true → w.address.toAddr.toNat + k ≠ a) →
        Memory.read t.mem a = Memory.read s.mem a) ∧
      (x.words.Pairwise (fun v w => v.address ≠ w.address) →
        ∀ w ∈ x.words, ∀ k < 4, w.enables.getLsbD k = true →
          Memory.read t.mem (w.address.toAddr.toNat + k) = wordByte w.data k)) ∧
  ∀ (s : State) (x : Transaction), s.pu.port = .processor x →
    Completes .processorTransactionEnd s fun t =>
      t.pu = { s.pu with
        waitCount := t.pu.waitCount, arbiter := t.pu.arbiter
        port := .free
        readData :=
          match x with
          | .write _ => s.pu.readData
          | .read r => (readAddresses r).map (Memory.readWord s.mem) } ∧
      ShowKept s t ∧ PlantKept s t ∧ GroundKept s t ∧ FetchKept s t ∧ ReportKept s t

/-- No processor-side write changes a memory word that lies in a published, unfetched slot: when the memory controller
presents one transaction at a time (R168), every step keeps every protected word as it was, and keeps words on their way to
memory out of protected slots. -/
def Obligations.ProtectedSlotsKept : Prop :=
  ∀ s t : State, MemorySound s → ResetSound s → QueuesSound s → WaitingSound s →
    (∀ c rest, s.pending = c :: rest → oneAtATime s c) → step s = .next t →
    WaitingSound t ∧
    ∀ a : WordAddr, protectedWord s a = true → ∀ k < 4,
      Memory.read t.mem (a.toAddr.toNat + k) = Memory.read s.mem (a.toAddr.toNat + k)

/-! ## Rings and the fetch unit -/

/-- An accepted mark write sets the mark, and an accepted AUDIO_MARK sets the final flag if bit 31 asks. A CUE_MARK is
accepted when the value is below 4,096 and the new published count at least the old one; an AUDIO_MARK when the final flag is
clear, bits 30 to 17 are 0, the mark is below 114,688 and the new published count is at least the old one. In PRIMING an accepted
AUDIO_MARK makes the priming test, with the mark and the final flag it leaves. -/
def Obligations.AcceptedMarkMoves : Prop :=
  (∀ (s : State) (v : Fin Config.cueSlots) (burst : Bool), PathDecides burst s →
    cuePublished s.fu ≤ (v - s.fu.cueFetch).val →
    Completes (.cueMarkWrite (BitVec.ofNat 32 v.val) burst) s fun t =>
      t.fu = { s.fu with cueMark := v, fetchRequest := t.fu.fetchRequest } ∧
      cuePublished t.fu = (v - s.fu.cueFetch).val ∧
      ShowKept s t ∧ PlantKept s t ∧ GroundKept s t ∧ ReportKept s t ∧
      Posted Config.cueMark (BitVec.ofNat 32 v.val) burst s t) ∧
  ∀ (s : State) (v : Fin Config.audioSlots) (final burst : Bool), PathDecides burst s →
    s.fu.final = false → audioPublished s.fu ≤ (v - s.fu.audioFetch).val →
    Completes (.audioMarkWrite (BitVec.ofNat 32 (v.val + if final then 2147483648 else 0)) burst) s fun t =>
      t.fu = { s.fu with audioMark := v, final := final, fetchRequest := t.fu.fetchRequest } ∧
      audioPublished t.fu = (v - s.fu.audioFetch).val ∧
      (s.sq.state ≠ .priming → t.sq = s.sq) ∧
      (s.sq.state = .priming →
        t.sq =
          if 512 ≤ s.au.fifo.length ∨ (final = true ∧ s.fu.audioFetch = v) then
            if s.sq.sync = .wait then { s.sq with state := .armed }
            else { s.sq with
              state := if anyMatched s .hold = true then .held else .running
              holdInterlock := s.sq.holdInterlock || anyMatched s .hold }
          else s.sq) ∧
      t.au = s.au ∧ PlantKept s t ∧ GroundKept s t ∧ ReportKept s t ∧
      Posted Config.audioMark (BitVec.ofNat 32 (v.val + if final then 2147483648 else 0)) burst s t

/-- A mark write that is not accepted sets the mark-fault flag, raises CUE and leaves the marks, the final flag and
everything else as they stood; a partial write to a mark word is forwarded and is no mark
fault. -/
def Obligations.MarkFaultLeavesMarks : Prop :=
  (∀ (s : State) (value : Word) (burst : Bool), PathDecides burst s →
    (4096 ≤ value.toNat ∨ (Fin.ofNat Config.cueSlots value.toNat - s.fu.cueFetch).val < cuePublished s.fu) →
    Completes (.cueMarkWrite value burst) s fun t =>
      t.fu = { s.fu with markFault := true, fetchRequest := t.fu.fetchRequest } ∧
      ShowKept s t ∧ PlantKept s t ∧ GroundKept s t ∧ ReportRaised .cue s t ∧ Posted Config.cueMark value burst s t) ∧
  (∀ (s : State) (value : Word) (burst : Bool), PathDecides burst s →
    (s.fu.final = true ∨ value.extractLsb' 17 14 ≠ 0 ∨ 114688 ≤ (value.extractLsb' 0 17).toNat ∨
      (Fin.ofNat Config.audioSlots (value.extractLsb' 0 17).toNat - s.fu.audioFetch).val < audioPublished s.fu) →
    Completes (.audioMarkWrite value burst) s fun t =>
      t.fu = { s.fu with markFault := true, fetchRequest := t.fu.fetchRequest } ∧
      ShowKept s t ∧ PlantKept s t ∧ GroundKept s t ∧ ReportRaised .cue s t ∧ Posted Config.audioMark value burst s t) ∧
  ∀ (s : State) (w : BusWrite) (progEn : Bool), PathDecides w.burst s → inWindow s.pu.base w.address = true →
    (windowOffset w.address = 0x040 ∨ windowOffset w.address = 0x044) → w.enables ≠ 15 →
    Completes (.processorWrite w progEn) s fun t =>
      ShowKept s t ∧ PlantKept s t ∧ GroundKept s t ∧ FetchKept s t ∧ ReportKept s t ∧ Forwarded w s t

/-- A completed burst that is not void moves its ring's fetch index past the slots read, puts the data read from memory at the
tail of the cue buffer or of the frame FIFO, lower slot first, frees the port, and raises SPACE exactly when the ring's free
count crosses its trigger. A cue record is taken here behind another, so that it does not become the head (NewHeadIsExamined
has the one that does). An audio read in PRIMING makes the priming test; in STARVED it leaves the show as it stands, the resume
test being made at a frame period (the model's reading, log entry 12). A void burst frees the port and does nothing else. That
the data is read from memory at the completion is the model's choice (log entry 10). -/
def Obligations.BurstDataIsPlaced : Prop :=
  (∀ (s : State) (slot : Fin Config.cueSlots), s.inReset = false →
    s.pu.port = .fetch { kind := .cue slot, void := false } → s.fu.cueBuffer ≠ [] →
    Completes .fetchBurstCompletion s fun t =>
      t.fu = { s.fu with
        cueFetch := s.fu.cueFetch + 1
        cueBuffer := s.fu.cueBuffer ++ [readCueSlot s slot]
        fetchRequest := t.fu.fetchRequest } ∧
      t.pu = { s.pu with port := .free, waitCount := t.pu.waitCount, arbiter := t.pu.arbiter } ∧
      (if cueFree s.fu < s.fu.cueTrigger ∧ s.fu.cueTrigger ≤ cueFree t.fu then ReportRaised .space s t
        else ReportKept s t) ∧
      ShowKept s t ∧ PlantKept s t ∧ GroundKept s t) ∧
  (∀ (s : State) (slot : Fin Config.audioSlots) (two : Bool), s.inReset = false →
    s.pu.port = .fetch { kind := .audio slot two, void := false } →
    Completes .fetchBurstCompletion s fun t =>
      t.fu = { s.fu with
        audioFetch := s.fu.audioFetch + (if two then 2 else 1)
        fetchRequest := t.fu.fetchRequest } ∧
      t.au = { s.au with
        fifo := s.au.fifo ++ (if two then [readAudioSlot s slot, readAudioSlot s (slot + 1)] else [readAudioSlot s slot]) } ∧
      t.pu = { s.pu with port := .free, waitCount := t.pu.waitCount, arbiter := t.pu.arbiter } ∧
      (if audioFree s.fu < s.fu.audioTrigger ∧ s.fu.audioTrigger ≤ audioFree t.fu then ReportRaised .space s t
        else ReportKept s t) ∧
      (s.sq.state ≠ .priming → t.sq = s.sq) ∧
      (s.sq.state = .priming →
        t.sq =
          if 512 ≤ t.au.fifo.length ∨ (s.fu.final = true ∧ t.fu.audioFetch = s.fu.audioMark) then
            if s.sq.sync = .wait then { s.sq with state := .armed }
            else { s.sq with
              state := if anyMatched s .hold = true then .held else .running
              holdInterlock := s.sq.holdInterlock || anyMatched s .hold }
          else s.sq) ∧
      PlantKept s t ∧ GroundKept s t) ∧
  ∀ (s : State) (k : BurstKind), s.inReset = false → s.pu.port = .fetch { kind := k, void := true } →
    Completes .fetchBurstCompletion s fun t =>
      t.pu = { s.pu with port := .free, waitCount := t.pu.waitCount, arbiter := t.pu.arbiter } ∧
      ShowKept s t ∧ PlantKept s t ∧ GroundKept s t ∧ FetchKept s t ∧ ReportKept s t

/-- A cue record that a completed burst puts into an empty buffer becomes the head. In a live show it is examined at once: its
number is compared with the expected one, and a break blocks the stream; when it matches, the expected number goes on by one,
and the record is consumed if it is a cue error, expanded if the table has room, and left waiting with its marker set if not.
In WINDDOWN it is kept unexamined. -/
def Obligations.NewHeadIsExamined : Prop :=
  ∀ (s : State) (slot : Fin Config.cueSlots), s.inReset = false →
    s.pu.port = .fetch { kind := .cue slot, void := false } → s.fu.cueBuffer = [] →
    let spaced : Bool := decide (cueFree s.fu < s.fu.cueTrigger ∧
      s.fu.cueTrigger ≤ 4095 - (s.fu.cueMark - (s.fu.cueFetch + 1)).val)
    let kept := fun t => t.au = s.au ∧ PlantKept s t ∧ GroundKept s t ∧
      t.pu = { s.pu with port := .free, waitCount := t.pu.waitCount, arbiter := t.pu.arbiter }
    (s.sq.state.live = true → s.sq.headAccepted = false → s.fu.cueBlocked = false →
      Completes .fetchBurstCompletion s fun t =>
        let x := examinedHead s.sq s.fu.expectedSequence (readCueSlot s slot)
        t.sq = x.sq ∧
        t.fu = { s.fu with
          cueFetch := s.fu.cueFetch + 1, cueBuffer := x.buffer, expectedSequence := x.expected
          cueBlocked := x.blocked, fetchRequest := t.fu.fetchRequest } ∧
        t.ru = { s.ru with
          pending := s.ru.pending ||| (if spaced then 64 else 0) ||| (if x.raised then 8 else 0)
          attention := t.ru.attention } ∧
        kept t) ∧
    (s.sq.state.live = false →
      Completes .fetchBurstCompletion s fun t =>
        t.sq = s.sq ∧
        t.fu = { s.fu with
          cueFetch := s.fu.cueFetch + 1, cueBuffer := [readCueSlot s slot], fetchRequest := t.fu.fetchRequest } ∧
        (if spaced then ReportRaised .space s t else ReportKept s t) ∧ kept t)

/-- RING_RESET in IDLE sets the marks, the fetch indices and the expected sequence to 0, clears the final, mark-fault and
cue-blocked flags, empties the cue buffer and makes a burst in flight void; the triggers, the FIFO, the release table and
memory are left. Both rings then publish nothing. In every other state it is refused. That the head-accepted marker is cleared
with the buffer it marks is the model's reading (log entry 17). -/
def Obligations.RingResetEmptiesRings : Prop :=
  ∀ (s : State) (burst : Bool), PathDecides burst s →
    (s.sq.state = .idle → Completes (.ringReset burst) s fun t =>
      t.fu = { s.fu with
        cueMark := 0, cueFetch := 0, audioMark := 0, audioFetch := 0
        final := false, markFault := false, cueBlocked := false
        cueBuffer := [], expectedSequence := 0, fetchRequest := t.fu.fetchRequest } ∧
      cueFree t.fu = 4095 ∧ audioFree t.fu = 114687 ∧
      t.sq = { s.sq with headAccepted := false } ∧ t.au = s.au ∧
      t.pu.port = s.pu.port.voided ∧
      PlantKept s t ∧ GroundKept s t ∧ Recorded 0x06 .accepted s t) ∧
    (s.sq.state ≠ .idle → Completes (.ringReset burst) s (ShowRefused 0x06 burst .refusedState s))

/-- SPACE_TRIGGERS sets both triggers when ARG0 is 1 to 4,095 and ARG1 is 1 to 114,687, in every show state, and raises no
cause; with either out of range it is refused with REFUSED_ARG. Reset sets the triggers to 2,048 and 57,344. -/
def Obligations.SpaceTriggersSet : Prop :=
  (∀ (s : State) (burst : Bool), PathDecides burst s →
    if 1 ≤ s.ru.arg0.toNat ∧ s.ru.arg0.toNat ≤ 4095 ∧ 1 ≤ s.ru.arg1.toNat ∧ s.ru.arg1.toNat ≤ 114687 then
      Completes (.spaceTriggers burst) s fun t =>
        t.fu = { s.fu with
          cueTrigger := s.ru.arg0.toNat, audioTrigger := s.ru.arg1.toNat, fetchRequest := t.fu.fetchRequest } ∧
        ShowKept s t ∧ PlantKept s t ∧ GroundKept s t ∧ Posted Config.showCmd 0x0C burst s t ∧ Recorded 0x0C .accepted s t
    else Completes (.spaceTriggers burst) s (ShowRefused 0x0C burst .refusedArg s)) ∧
  ∀ s : State, Completes .resetAssert s fun t => t.fu.cueTrigger = 2048 ∧ t.fu.audioTrigger = 57344

/-! ## Show commands -/

/-- START is tested in three groups: the show state, then the table and the limit operation, then the arguments. The first that
fails decides the outcome, and a refused START changes nothing but the result record. An accepted START records rate and sync
mode, converts every lead, lag and the starve limit by floor(ms × rate / 1000), sets the position to ARG1, empties holds,
starve count, fault record and last mark, starts the frame clock, ABCK running with AFCK and the data lines low until the first
frame period (its phase: log entry 16), and enters PRIMING; primed already, it goes on to ARMED or, subject to R6, to RUNNING.
Water, light, guard, limits, rings and FIFO are left. -/
def Obligations.StartBeginsTestedShow : Prop :=
  (∀ (s : State) (burst : Bool), PathDecides burst s →
    let limits := s.ls.tableState = .valid ∧ s.ls.operation = none
    let arguments := s.ru.arg0.toNat ≤ 2 ∧ s.ru.arg1.toNat < 4294967295 ∧ s.ru.arg2.toNat ≤ 1
    (s.sq.state ≠ .idle → Completes (.start burst) s (ShowRefused 0x01 burst .refusedState s)) ∧
    (s.sq.state = .idle → ¬limits → Completes (.start burst) s (ShowRefused 0x01 burst .refusedLimits s)) ∧
    (s.sq.state = .idle → limits → ¬arguments → Completes (.start burst) s (ShowRefused 0x01 burst .refusedArg s))) ∧
  ∀ (s : State) (burst : Bool) (rate : Rate), PathDecides burst s → s.sq.state = .idle → s.ls.tableState = .valid →
    s.ls.operation = none → s.ru.arg0.toNat = rate.code → s.ru.arg1.toNat < 4294967295 → s.ru.arg2.toNat ≤ 1 →
    Completes (.start burst) s fun t =>
      let fps := match rate with | .r32000 => 32000 | .r44100 => 44100 | .r48000 => 48000
      t.sq.rate = rate ∧ t.sq.sync = (if s.ru.arg2 = 0 then .immediate else .wait) ∧
      (∀ v : Fin 192, t.sq.valveLeads[v] = s.ls.table.valveLead v * fps / 1000) ∧
      (∀ p : Fin 16, t.sq.pumpLeads[p] = s.ls.table.pumpLead p * fps / 1000) ∧
      (∀ g : Fin 64, t.sq.lightLags[g] = s.ls.table.lightLag g * fps / 1000) ∧
      t.sq.starveLimit = s.ls.table.starveLimitMs * fps / 1000 ∧
      t.sq.position = s.ru.arg1 ∧ t.sq.holdHost = false ∧ t.sq.holdPending = .clear ∧ t.sq.starveCount = 0 ∧
      t.sq.faultRecord = FaultRecord.empty ∧ t.sq.lastMark = none ∧ t.sq.table = s.sq.table ∧
      t.sq.lateCount = s.sq.lateCount ∧ t.sq.discardedCount = s.sq.discardedCount ∧
      t.sq.state =
        (if 512 ≤ s.au.fifo.length ∨ (s.fu.final = true ∧ s.fu.audioFetch = s.fu.audioMark) then
          if s.ru.arg2 = 1 then .armed else if anyMatched s .hold = true then .held else .running
        else .priming) ∧
      t.au.clock = some rate ∧ t.au.lines = .waiting ∧ t.au.fifo = s.au.fifo ∧
      (∀ half : Fin 64, t.au.lines.levels half =
        { abck := decide (half.val % 2 = 1), afck := false, ad0 := false, ad1 := false }) ∧
      (∀ c : Fin 4, t.au.monitors[c] =
        if s.au.monitors[c].window ≠ 0 ∧ s.au.muteSet.getLsbD c = false then
          { s.au.monitors[c] with counted := 0, peak := 0, count := 0 }
        else s.au.monitors[c]) ∧
      PlantKept s t ∧ GroundKept s t ∧ FetchKept s t ∧ Posted Config.showCmd 0x01 burst s t ∧ Recorded 0x01 .accepted s t

/-- STOP in PRIMING, ARMED, RUNNING, STARVED and HELD begins normal wind-down: the position stands, holds and starve count are
cleared, the release table is discarded and counted, every pump is commanded to 0 and every valve wanted closed with no output
moved, and every group goes to its safe level over the wind-down fade without a binding. In the other states it is refused. -/
def Obligations.StopBeginsWinddown : Prop :=
  ∀ (s : State) (burst : Bool), PathDecides burst s →
    (s.sq.state.live = true → Completes (.stop burst) s fun t =>
      t.sq = { s.sq with
        state := .winddown, kind := .normal, holdHost := false, holdInterlock := false, holdPending := .clear
        starveCount := 0, table := [], runDivided := false, colourTaken := false
        discardedCount := saturate16 s.sq.discardedCount s.sq.table.length } ∧
      t.au = s.au ∧ t.wu.wanted = 0 ∧ (∀ p : Fin 16, t.wu.commanded[p] = 0) ∧ t.wu.output = s.wu.output ∧
      (∀ g : Fin 64, t.lu.groups[g] = { s.lu.groups[g] with
        target := Colour.level (s.ls.table.safeLevel g)
        fade := BitVec.ofNat 10 s.ls.table.winddownFade
        follow := none, scale := 0 }) ∧
      t.fu.fetchRequest = false ∧ FetchKept s t ∧ t.gu = s.gu ∧ t.ls = s.ls ∧ GroundKept s t ∧
      Posted Config.showCmd 0x02 burst s t ∧ Recorded 0x02 .accepted s t) ∧
    (s.sq.state.live = false → Completes (.stop burst) s (ShowRefused 0x02 burst .refusedState s))

/-- At wind-down entry the closes go in ascending order, each judged on the wanted image the earlier ones left: of the valves
that were wanted open, exactly those are deferred for which some pump above idle has the valve on its header and fewer than
min-open wanted-open header valves above it in number. The others are applied closed. So it is whatever begins the wind-down: a
STOP, a STARVE_LIMIT (in its frame period, or by its own row, log entry 5), a POSITION_LIMIT, an END at the front of the table,
or an INTERLOCK_TRIP at a debounce expiry. -/
def Obligations.WinddownDefersHighestValves : Prop :=
  ∀ s : State, ImagesSound s → s.inReset = false →
    let defers := fun (t : State) => ∀ v : Fin 192,
      let blocked := ∃ p : Fin 16, s.ls.table.idleSpeed p < s.wu.output[p] ∧ s.ls.table.onHeader p v = true ∧
        (List.range 192).countP (fun w => decide (v.val < w) && s.wu.wanted.getLsbD w && s.ls.table.onHeader p w) <
          s.ls.table.minOpen p
      (t.wu.deferred.getLsbD v = true ↔
        (s.wu.deferred.getLsbD v = true ∨ (s.wu.wanted.getLsbD v = true ∧ blocked))) ∧
      (t.wu.applied.getLsbD v = true ↔
        (s.wu.deferred.getLsbD v = true ∨ (s.wu.wanted.getLsbD v = true ∧ blocked)))
    let finished := s.fu.final = true ∧ s.fu.audioFetch = s.fu.audioMark
    (∀ burst : Bool, PathDecides burst s → s.sq.state.live = true → Completes (.stop burst) s defers) ∧
    (s.sq.state = .starved → s.sq.starveCount = s.sq.starveLimit → Completes .starveLimit s defers) ∧
    (s.au.clock.isSome = true → s.sq.state = .starved → s.sq.starveCount + 1 = s.sq.starveLimit →
      s.au.fifo.length < 64 → ¬finished → Completes .framePeriod s defers) ∧
    (s.au.clock.isSome = true → s.sq.state = .running → s.sq.position = 0xFFFFFFFF → (s.au.fifo ≠ [] ∨ finished) →
      Completes .framePeriod s defers) ∧
    (∀ (e : ReleaseEntry) (later : List ReleaseEntry), s.au.clock.isSome = true → s.sq.state = .running →
      s.sq.position ≠ 0xFFFFFFFF → (s.au.fifo ≠ [] ∨ finished) → s.sq.table = e :: later →
      e.due.toNat ≤ s.sq.position.toNat + 1 → e.action = .endShow → Completes .framePeriod s defers) ∧
    (∀ (i : Fin 16) (e : Fin 8), s.sq.state.live = true → s.gu.timers[i] ≠ none →
      s.gu.raw.getLsbD i ≠ s.gu.debounced.getLsbD i → s.ls.tableState = .valid →
      s.ls.table.patternHolds e (s.gu.debounced ^^^ BitVec.twoPow 16 i) (some (i, s.gu.raw.getLsbD i)) = true →
      s.gu.matched.getLsbD e = false → s.ls.table.entryAction e = 3 → Completes (.debounceTimerExpiry i) s defers)

/-- HOLD is accepted in RUNNING, STARVED and HELD with ARG0 0 or 1. Immediate (1) adds HOST, clears the hold-pending mode and
enters HELD, dropping the starve count of a STARVED show; at-mark (0) sets the hold-pending mode alone. The starve count a
hold leaves is 0 by the model's reading of 'drop' (log entry 11). -/
def Obligations.HoldByMode : Prop :=
  ∀ (s : State) (burst : Bool), PathDecides burst s →
    let holdable := s.sq.state = .running ∨ s.sq.state = .starved ∨ s.sq.state = .held
    (holdable → s.ru.arg0 = 1 → Completes (.hold burst) s fun t =>
      t.sq = { s.sq with
        state := .held, holdHost := true, holdPending := .clear
        starveCount := if s.sq.state = .starved then 0 else s.sq.starveCount } ∧
      t.au = s.au ∧ PlantKept s t ∧ GroundKept s t ∧ FetchKept s t ∧ Posted Config.showCmd 0x03 burst s t ∧
      Recorded 0x03 .accepted s t) ∧
    (holdable → s.ru.arg0 = 0 → Completes (.hold burst) s fun t =>
      t.sq = { s.sq with holdPending := .atMark } ∧
      t.au = s.au ∧ PlantKept s t ∧ GroundKept s t ∧ FetchKept s t ∧ Posted Config.showCmd 0x03 burst s t ∧
      Recorded 0x03 .accepted s t) ∧
    (holdable → 2 ≤ s.ru.arg0.toNat → Completes (.hold burst) s (ShowRefused 0x03 burst .refusedArg s)) ∧
    (¬holdable → Completes (.hold burst) s (ShowRefused 0x03 burst .refusedState s))

/-- STEP is accepted only in HELD with reasons exactly {HOST}: it removes HOST, sets the hold-pending mode to at-mark and
enters RUNNING. PROCEED is accepted in HELD: it removes HOST and clears the hold-pending mode, and enters RUNNING when no reason
is left. While a HOLD entry is matched, HELD for INTERLOCK takes the place of RUNNING (R6). Otherwise both are refused with
REFUSED_STATE. -/
def Obligations.StepAndProceedRunOn : Prop :=
  ∀ (s : State) (burst : Bool), PathDecides burst s →
    let steppable := s.sq.state = .held ∧ s.sq.holdHost = true ∧ s.sq.holdInterlock = false
    (steppable → Completes (.step burst) s fun t =>
      t.sq = { s.sq with
        holdHost := false, holdPending := .atMark
        state := if anyMatched s .hold = true then .held else .running
        holdInterlock := anyMatched s .hold } ∧
      t.au = s.au ∧ PlantKept s t ∧ GroundKept s t ∧ FetchKept s t ∧ Posted Config.showCmd 0x04 burst s t ∧
      Recorded 0x04 .accepted s t) ∧
    (¬steppable → Completes (.step burst) s (ShowRefused 0x04 burst .refusedState s)) ∧
    (s.sq.state = .held → Completes (.proceed burst) s fun t =>
      t.sq = { s.sq with
        holdHost := false, holdPending := .clear
        state := if s.sq.holdInterlock = true ∨ anyMatched s .hold = true then .held else .running
        holdInterlock := s.sq.holdInterlock || anyMatched s .hold } ∧
      t.au = s.au ∧ PlantKept s t ∧ GroundKept s t ∧ FetchKept s t ∧ Posted Config.showCmd 0x05 burst s t ∧
      Recorded 0x05 .accepted s t) ∧
    (s.sq.state ≠ .held → Completes (.proceed burst) s (ShowRefused 0x05 burst .refusedState s))

/-- AMBIENT in IDLE with ARG1 at most 1,023 gives every group the colour of ARG0 as its target and ARG1 as its fade, and
removes its binding; current colours are left. In another state it is refused with REFUSED_STATE, and in IDLE with a greater
ARG1 with REFUSED_ARG. -/
def Obligations.AmbientFadesEveryGroup : Prop :=
  ∀ (s : State) (burst : Bool), PathDecides burst s →
    (s.sq.state = .idle → s.ru.arg1.toNat ≤ 1023 → Completes (.ambient burst) s fun t =>
      (∀ g : Fin 64, t.lu.groups[g] = { s.lu.groups[g] with
        target := { red := s.ru.arg0.extractLsb' 0 8, green := s.ru.arg0.extractLsb' 8 8
                    blue := s.ru.arg0.extractLsb' 16 8, white := s.ru.arg0.extractLsb' 24 8 }
        fade := s.ru.arg1.extractLsb' 0 10, follow := none, scale := 0 }) ∧
      t.lu.latestPeak = s.lu.latestPeak ∧ t.lu.frameCount = s.lu.frameCount ∧ t.lu.link = s.lu.link ∧
      ShowKept s t ∧ t.wu = s.wu ∧ t.gu = s.gu ∧ t.ls = s.ls ∧ GroundKept s t ∧ FetchKept s t ∧
      Posted Config.showCmd 0x07 burst s t ∧ Recorded 0x07 .accepted s t) ∧
    (s.sq.state = .idle → 1024 ≤ s.ru.arg1.toNat → Completes (.ambient burst) s (ShowRefused 0x07 burst .refusedArg s)) ∧
    (s.sq.state ≠ .idle → Completes (.ambient burst) s (ShowRefused 0x07 burst .refusedState s))

/-- An accepted CUE_RESYNC sets the expected sequence to ARG0 and clears the cue-blocked flag. Where the show does not decode,
the buffer is empty or the head has passed its check, that is all. Where a head has not passed, it is checked at once: a head
of another number blocks the stream again with CUE raised, the head and the expected number standing; a head of that number,
alone in the buffer, is consumed and counted with CUE raised if it is a cue error, expanded if the table has room for it, and
left waiting with its marker set if not. The record behind a head that leaves is examined next, unless an advance comes next
and is taken first: then it divides the run, and the record waits for it. Which of the two is taken first is a free value (log
entry 20). An ARG0 above 255 is refused. -/
def Obligations.ResyncChecksBlockedHead : Prop :=
  ∀ (s : State) (burst : Bool), PathDecides burst s →
    (s.ru.arg0.toNat ≤ 255 → (s.sq.state.live = false ∨ s.fu.cueBuffer = [] ∨ s.sq.headAccepted = true) →
      Completes (.cueResync burst) s fun t =>
        t.fu = { s.fu with
          expectedSequence := s.ru.arg0.extractLsb' 0 8, cueBlocked := false, fetchRequest := t.fu.fetchRequest } ∧
        ShowKept s t ∧ PlantKept s t ∧ GroundKept s t ∧ Posted Config.showCmd 0x08 burst s t ∧
        Recorded 0x08 .accepted s t) ∧
    (∀ r rest, s.ru.arg0.toNat ≤ 255 → s.sq.state.live = true → s.fu.cueBuffer = r :: rest →
      s.sq.headAccepted = false → r.sequence.toNat ≠ s.ru.arg0.toNat →
      Completes (.cueResync burst) s fun t =>
        t.fu = { s.fu with
          expectedSequence := s.ru.arg0.extractLsb' 0 8, cueBlocked := true, fetchRequest := t.fu.fetchRequest } ∧
        t.sq = { s.sq with foundSequence := r.sequence } ∧ t.au = s.au ∧ PlantKept s t ∧ GroundKept s t ∧
        Posted Config.showCmd 0x08 burst s t ∧
        t.ru = { s.ru with
          code := 0x08, outcome := .accepted, pending := s.ru.pending ||| 8, attention := t.ru.attention }) ∧
    (∀ r, s.ru.arg0.toNat ≤ 255 → s.sq.state.live = true → s.fu.cueBuffer = [r] → s.sq.headAccepted = false →
      Completes (.cueResync burst) s fun t =>
        let x := examinedHead s.sq (s.ru.arg0.extractLsb' 0 8) r
        t.fu = { s.fu with
          expectedSequence := x.expected, cueBlocked := x.blocked, cueBuffer := x.buffer
          fetchRequest := t.fu.fetchRequest } ∧
        t.sq = x.sq ∧ t.au = s.au ∧ PlantKept s t ∧ GroundKept s t ∧ Posted Config.showCmd 0x08 burst s t ∧
        t.ru = { s.ru with
          code := 0x08, outcome := .accepted
          pending := s.ru.pending ||| (if x.raised then 8 else 0), attention := t.ru.attention }) ∧
    (∀ r q, s.ru.arg0.toNat ≤ 255 → s.sq.state.live = true → s.fu.cueBuffer = [r, q] → s.sq.headAccepted = false →
      r.sequence.toNat = s.ru.arg0.toNat → r.actions = none →
      Completes (.cueResync burst) s fun t =>
        let consumed : Sequencer :=
          { s.sq with foundSequence := r.sequence, cueErrorCount := saturate16 s.sq.cueErrorCount 1 }
        let x := examinedHead consumed (r.sequence + 1) q
        (if AdvanceNext s ∧ Config.advanceDivides s.meetings = true then
          t.fu = { s.fu with
            expectedSequence := r.sequence + 1, cueBlocked := false, cueBuffer := [q]
            fetchRequest := t.fu.fetchRequest } ∧
          t.sq = { consumed with runDivided := true }
        else
          t.fu = { s.fu with
            expectedSequence := x.expected, cueBlocked := x.blocked, cueBuffer := x.buffer
            fetchRequest := t.fu.fetchRequest } ∧
          t.sq = x.sq) ∧
        t.au = s.au ∧ PlantKept s t ∧ GroundKept s t ∧ Posted Config.showCmd 0x08 burst s t ∧
        t.ru = { s.ru with
          code := 0x08, outcome := .accepted, pending := s.ru.pending ||| 8, attention := t.ru.attention }) ∧
    (256 ≤ s.ru.arg0.toNat → Completes (.cueResync burst) s (ShowRefused 0x08 burst .refusedArg s))

/-- RELEASE_INTERLOCKS is accepted in every state. Every latched entry whose pattern does not hold with no edge leaves both
sets, and no other entry is touched. A TRIPPED show with no TRIP entry then matched goes to IDLE with its fault record
emptied; a HELD show that had a HOLD entry matched and has none left loses INTERLOCK, and runs if HOST does not hold it; every
other show state stands. -/
def Obligations.ReleaseUnlatches : Prop :=
  ∀ (s : State) (burst : Bool), PathDecides burst s →
    Completes (.releaseInterlocks burst) s fun t =>
      (∀ e : Fin 8,
        let gone := s.gu.latched.getLsbD e && !entryHolds s none e
        t.gu.matched.getLsbD e = (s.gu.matched.getLsbD e && !gone) ∧
        t.gu.latched.getLsbD e = (s.gu.latched.getLsbD e && !gone)) ∧
      t.gu = { s.gu with matched := t.gu.matched, latched := t.gu.latched } ∧
      (s.sq.state = .tripped → t.sq =
        if anyMatched t .trip = true then s.sq else { s.sq with state := .idle, faultRecord := FaultRecord.empty }) ∧
      (s.sq.state = .held → t.sq =
        if anyMatched s .hold = true ∧ anyMatched t .hold = false then
          { s.sq with holdInterlock := false, state := if s.sq.holdHost then .held else .running }
        else s.sq) ∧
      (s.sq.state ≠ .tripped → s.sq.state ≠ .held → t.sq = s.sq) ∧
      t.au = s.au ∧ t.wu = s.wu ∧ t.lu = s.lu ∧ t.ls = s.ls ∧ GroundKept s t ∧ FetchKept s t ∧
      Posted Config.showCmd 0x09 burst s t ∧ Recorded 0x09 .accepted s t

/-- An accepted MUTE replaces the mute set. A newly muted channel's monitor has its window abandoned and its results set to 0,
and its followers are scaled to 0; a newly unmuted one begins a fresh window; the others are left. With a bit above bit 3 set
in ARG0 the command is refused with REFUSED_ARG. -/
def Obligations.MuteReplacesSet : Prop :=
  ∀ (s : State) (burst : Bool), PathDecides burst s →
    (s.ru.arg0.toNat ≤ 15 → Completes (.mute burst) s fun t =>
      t.au.muteSet = s.ru.arg0.extractLsb' 0 4 ∧
      (∀ c : Fin 4,
        let m := s.au.monitors[c]
        let before := s.au.muteSet.getLsbD c
        let after := s.ru.arg0.getLsbD c
        t.au.monitors[c] =
          (if after = true ∧ before = false then
            { m with counted := 0, peak := 0, count := 0, storedPeak := 0, storedCount := 0 }
          else if after = false ∧ before = true then { m with counted := 0, peak := 0, count := 0 }
          else m) ∧
        t.lu.latestPeak[c] = if after = true ∧ before = false then 0 else s.lu.latestPeak[c]) ∧
      (∀ g : Fin 64,
        t.lu.groups[g] = { s.lu.groups[g] with scale := t.lu.groups[g].scale } ∧
        t.lu.groups[g].scale =
          match s.lu.groups[g].follow with
          | some c => if s.ru.arg0.getLsbD c = true ∧ s.au.muteSet.getLsbD c = false then 0 else s.lu.groups[g].scale
          | none => s.lu.groups[g].scale) ∧
      t.au = { s.au with muteSet := t.au.muteSet, monitors := t.au.monitors } ∧
      t.lu = { s.lu with groups := t.lu.groups, latestPeak := t.lu.latestPeak } ∧
      t.sq = s.sq ∧ t.wu = s.wu ∧ t.gu = s.gu ∧ t.ls = s.ls ∧ GroundKept s t ∧ FetchKept s t ∧
      Posted Config.showCmd 0x0A burst s t ∧ Recorded 0x0A .accepted s t) ∧
    (16 ≤ s.ru.arg0.toNat → Completes (.mute burst) s (ShowRefused 0x0A burst .refusedArg s))

/-- MONITOR sets a channel's window length and threshold and sets its frames counted, running peak and running count to 0,
keeping its stored results; the other monitors are left. With an argument out of range it is refused with REFUSED_ARG. -/
def Obligations.MonitorBeginsWindow : Prop :=
  ∀ (s : State) (burst : Bool), PathDecides burst s →
    (∀ c : Fin 4, s.ru.arg0.toNat = c.val → s.ru.arg1.toNat ≤ 65535 → s.ru.arg2.toNat ≤ 32767 →
      Completes (.monitor burst) s fun t =>
        (∀ d : Fin 4, t.au.monitors[d] =
          if d = c then
            { s.au.monitors[d] with
              window := s.ru.arg1.extractLsb' 0 16, threshold := s.ru.arg2.extractLsb' 0 15
              counted := 0, peak := 0, count := 0 }
          else s.au.monitors[d]) ∧
        t.au = { s.au with monitors := t.au.monitors } ∧ t.sq = s.sq ∧ PlantKept s t ∧ GroundKept s t ∧
        FetchKept s t ∧ Posted Config.showCmd 0x0B burst s t ∧ Recorded 0x0B .accepted s t) ∧
    ((3 < s.ru.arg0.toNat ∨ 65535 < s.ru.arg1.toNat ∨ 32767 < s.ru.arg2.toNat) →
      Completes (.monitor burst) s (ShowRefused 0x0B burst .refusedArg s))

/-- CLEAR_COUNTS sets the refused, late, discarded, underflow and cue error counts to 0 in every state, and leaves everything
else, the last refused address, the fault record and the pending set among it; the write itself is posted. -/
def Obligations.CountsCleared : Prop :=
  ∀ (s : State) (burst : Bool), PathDecides burst s →
    Completes (.clearCounts burst) s fun t =>
      t.pu = { (pushWord (fullWrite s.pu.base Config.showCmd 0x0D burst) false s).pu with
        refusedCount := 0, waitCount := t.pu.waitCount, arbiter := t.pu.arbiter } ∧
      t.sq = { s.sq with lateCount := 0, discardedCount := 0, cueErrorCount := 0 } ∧
      t.au = { s.au with underflowCount := 0 } ∧
      PlantKept s t ∧ GroundKept s t ∧ FetchKept s t ∧ Recorded 0x0D .accepted s t

/-- A full write to SHOW_CMD of a value that names no command is recorded as written with REFUSED_ARG, and a partial write is
recorded as code 0 with PARTIAL_WRITE; neither changes anything else but the posted write. A full write to an argument word
replaces that copy and nothing else, in every state; a partial write leaves the copies. -/
def Obligations.UnnamedAndArgumentWordsTaken : Prop :=
  (∀ (s : State) (code : Word) (burst : Bool), PathDecides burst s → WellFormed (.showCmdUnknownCode code burst) = true →
    Completes (.showCmdUnknownCode code burst) s (ShowRefused code burst .refusedArg s)) ∧
  (∀ (s : State) (data : Word) (enables : BitVec 4) (burst : Bool), PathDecides burst s →
    WellFormed (.showCmdPartialWrite data enables burst) = true →
    Completes (.showCmdPartialWrite data enables burst) s fun t =>
      ShowKept s t ∧ PlantKept s t ∧ GroundKept s t ∧ FetchKept s t ∧ Recorded 0 .partialWrite s t ∧
      Forwarded { address := windowWord s.pu.base Config.showCmd, data := data, enables := enables, burst := burst } s t) ∧
  (∀ (s : State) (i : Fin 3) (value : Word) (burst : Bool), PathDecides burst s →
    Completes (.showArgWrite i value burst) s fun t =>
      t.ru = { s.ru with
        arg0 := if i = 0 then value else s.ru.arg0
        arg1 := if i = 1 then value else s.ru.arg1
        arg2 := if i = 2 then value else s.ru.arg2
        attention := t.ru.attention } ∧
      ShowKept s t ∧ PlantKept s t ∧ GroundKept s t ∧ FetchKept s t ∧
      Posted (Config.showArg + 4 * i.val) value burst s t) ∧
  ∀ (s : State) (w : BusWrite) (progEn : Bool), PathDecides w.burst s → inWindow s.pu.base w.address = true →
    (windowOffset w.address = 0x004 ∨ windowOffset w.address = 0x008 ∨ windowOffset w.address = 0x00C) →
    w.enables ≠ 15 →
    Completes (.processorWrite w progEn) s fun t =>
      ShowKept s t ∧ PlantKept s t ∧ GroundKept s t ∧ FetchKept s t ∧ ReportKept s t ∧ Forwarded w s t

/-! ## Attention -/

/-- A full write to ATTN_ENABLE replaces the enable set with the causes named by bits 8 to 0, and one to ATTN_CLEAR removes the
causes named from the pending set; the other set stands, ATTN_N follows at once, and nothing else changes. A partial write to
one of the two words is forwarded and changes nothing else. -/
def Obligations.AttentionWordsTaken : Prop :=
  (∀ (s : State) (value : Word) (burst : Bool), PathDecides burst s →
    Completes (.attnEnableWrite value burst) s fun t =>
      (∀ k : Fin 9, t.ru.enable.getLsbD k = value.getLsbD k) ∧
      t.ru = { s.ru with enable := t.ru.enable, attention := decide (s.ru.pending &&& t.ru.enable ≠ 0) } ∧
      ShowKept s t ∧ PlantKept s t ∧ GroundKept s t ∧ FetchKept s t ∧ Posted Config.attnEnable value burst s t) ∧
  (∀ (s : State) (value : Word) (burst : Bool), PathDecides burst s →
    Completes (.attnClearWrite value burst) s fun t =>
      (∀ k : Fin 9, t.ru.pending.getLsbD k = (s.ru.pending.getLsbD k && !value.getLsbD k)) ∧
      t.ru = { s.ru with pending := t.ru.pending, attention := decide (t.ru.pending &&& s.ru.enable ≠ 0) } ∧
      ShowKept s t ∧ PlantKept s t ∧ GroundKept s t ∧ FetchKept s t ∧ Posted Config.attnClear value burst s t) ∧
  ∀ (s : State) (w : BusWrite) (progEn : Bool), PathDecides w.burst s → inWindow s.pu.base w.address = true →
    (windowOffset w.address = 0x0C0 ∨ windowOffset w.address = 0x0C4) → w.enables ≠ 15 →
    Completes (.processorWrite w progEn) s fun t =>
      ShowKept s t ∧ PlantKept s t ∧ GroundKept s t ∧ FetchKept s t ∧ ReportKept s t ∧ Forwarded w s t

/-- A read of the cause word, under any byte enables, returns the number of the highest-priority cause pending and enabled and
removes that cause from the pending set; with none in both sets it returns 0 and removes nothing. A burst read shows the
pending set as it stood before the removal. -/
def Obligations.CauseWordReadRemovesCause : Prop :=
  ∀ (s : State) (form : ReadForm), s.inReset = false →
    (∀ k : Fin 9, s.ru.pending.getLsbD k = true → s.ru.enable.getLsbD k = true →
      (∀ j : Fin 9, j < k → s.ru.pending.getLsbD j = false ∨ s.ru.enable.getLsbD j = false) →
      Completes (.causeWordRead form) s fun t =>
        (∀ j : Fin 9, t.ru.pending.getLsbD j = (s.ru.pending.getLsbD j && decide (j ≠ k))) ∧
        t.ru = { s.ru with pending := t.ru.pending, attention := t.ru.attention } ∧
        t.pu = { s.pu with
          waitCount := t.pu.waitCount, arbiter := t.pu.arbiter
          readData :=
            if form.burst then
              [s.ru.enable.setWidth 32 <<< 16 ||| s.ru.pending.setWidth 32, BitVec.ofNat 32 (k.val + 1), 0, 0]
            else [BitVec.ofNat 32 (k.val + 1)] } ∧
        ShowKept s t ∧ PlantKept s t ∧ GroundKept s t ∧ FetchKept s t) ∧
    (s.ru.pending &&& s.ru.enable = 0 →
      Completes (.causeWordRead form) s fun t =>
        ReportKept s t ∧
        t.pu = { s.pu with
          waitCount := t.pu.waitCount, arbiter := t.pu.arbiter
          readData :=
            if form.burst then [s.ru.enable.setWidth 32 <<< 16 ||| s.ru.pending.setWidth 32, 0, 0, 0] else [0] } ∧
        ShowKept s t ∧ PlantKept s t ∧ GroundKept s t ∧ FetchKept s t)

/-! ## Answered reads -/

/-- A read of the status page or the limit view that arrives at the part is answered at once with its word, or with the four
words of its aligned burst, each as it stood when the read was taken, whatever its byte enables; no grant is due here, so that
the command makes none. If the cause word is among them, the cause it returned leaves the pending set; nothing else changes.
A word of the limit view shows the table's bytes, then the lock cell, 0xFF unlocked and 0x00 locked, then zeros. Such a read is
an event of ARBITER_GRANT, and the words read are kept as the model's own record (log entries 10 and 13). -/
def Obligations.AnsweredReadsReturnWords : Prop :=
  (∀ (s : State) (r : BusRead) (fetchFirst : Bool), s.inReset = false → inWindow s.pu.base r.address = true →
    0x01000 ≤ windowOffset r.address → windowOffset r.address < 0x04000 →
    (s.pu.port ≠ .free ∨ (s.pu.arbiter = .idle ∧ s.pu.waiting = [] ∧ s.fu.fetchRequest = false)) →
    Completes (.arbiterGrant { arriving := some r, fetchFirst := fetchFirst }) s fun t =>
      let word := fun (offset : Nat) =>
        if offset < 0x02000 then statusWord s (offset - 0x01000) else limitViewWord s.ls (offset - 0x02000)
      let offset := windowOffset r.address
      let first := 16 * (offset / 16)
      let cause := if r.burst then decide (first = 0x01140) else decide (offset = 0x01144)
      t.pu = { s.pu with
        waitCount := t.pu.waitCount, arbiter := t.pu.arbiter
        readData :=
          if r.burst then [word first, word (first + 4), word (first + 8), word (first + 12)] else [word offset] } ∧
      (∀ j : Fin 9, t.ru.pending.getLsbD j =
        (s.ru.pending.getLsbD j && !(cause && decide (causeNumber s.ru = j.val + 1)))) ∧
      t.ru = { s.ru with pending := t.ru.pending, attention := t.ru.attention } ∧
      ShowKept s t ∧ PlantKept s t ∧ GroundKept s t ∧ FetchKept s t) ∧
  ∀ (x : LimitStore) (offset k : Nat), k < 4 →
    wordByte (limitViewWord x offset) k =
      if offset + k < 2048 then x.table.byte (offset + k)
      else if offset + k = 2048 then (if x.locked then 0x00 else 0xFF) else 0

/-- Every word of the status page carries the items its line of section 11.3 gives, coded as given there, and 0 in every other
bit; every other word of the page reads 0. The items wider here than their fields are within them: at most 512 entries in the
release table, 1,024 frames in the FIFO, and speeds of at most 1,000. -/
def Obligations.StatusPageShowsState : Prop :=
  (∀ s : State,
    (statusWord s 0x000).toNat =
      (match s.sq.state with
        | .idle => 0 | .priming => 1 | .armed => 2 | .running => 3
        | .starved => 4 | .held => 5 | .winddown => 6 | .tripped => 7) +
      (match s.sq.kind with | .normal => 0 | .fault => 16) +
      256 * s.sq.holdHost.toNat + 512 * s.sq.holdInterlock.toNat +
      (match s.sq.holdPending with | .clear => 0 | .atMark => 4096) +
      (match s.sq.rate with | .r32000 => 0 | .r44100 => 65536 | .r48000 => 131072) ∧
    statusWord s 0x004 = s.sq.position ∧
    (statusWord s 0x008).toNat = (match s.sq.lastMark with | some m => m.number.toNat + 2147483648 | none => 0) ∧
    statusWord s 0x00C = (match s.sq.lastMark with | some m => m.position | none => 0) ∧
    (statusWord s 0x010).toNat =
      (match s.sq.faultRecord.first with
        | none => 0 | some (.interlockTrip e) => 1 + 256 * e.val + 2048 | some .starveLimit => 2
        | some .positionLimit => 3) + 65536 * s.sq.faultRecord.secondary.toNat ∧
    statusWord s 0x014 = s.sq.faultRecord.position ∧ statusWord s 0x018 = s.ru.code ∧
    (statusWord s 0x01C).toNat =
      (match s.ru.outcome with
        | .none => 0 | .accepted => 1 | .refusedState => 2 | .refusedLimits => 3 | .refusedArg => 4
        | .partialWrite => 5) ∧
    (statusWord s 0x020).toNat = s.fu.cueMark.val ∧ (statusWord s 0x024).toNat = s.fu.cueFetch.val ∧
    (statusWord s 0x028).toNat = 4095 - (s.fu.cueMark - s.fu.cueFetch).val ∧
    (statusWord s 0x02C).toNat = s.fu.expectedSequence.toNat + 256 * s.sq.foundSequence.toNat +
      65536 * s.fu.cueBlocked.toNat + 131072 * s.fu.markFault.toNat ∧
    (statusWord s 0x030).toNat = s.fu.audioMark.val + 2147483648 * s.fu.final.toNat ∧
    (statusWord s 0x034).toNat = s.fu.audioFetch.val ∧
    (statusWord s 0x038).toNat = 114687 - (s.fu.audioMark - s.fu.audioFetch).val ∧
    (s.au.fifo.length ≤ 1024 → (statusWord s 0x03C).toNat = s.au.fifo.length) ∧
    (s.sq.table.length ≤ 512 →
      (statusWord s 0x040).toNat = s.sq.table.length + 65536 * s.sq.table.countP (fun e => e.late)) ∧
    (statusWord s 0x044).toNat = (match s.sq.lastReleased with | some q => q.toNat + 256 | none => 0) ∧
    (statusWord s 0x048).toNat = s.au.muteSet.toNat) ∧
  (∀ (s : State) (c : Fin 4),
    (statusWord s (0x050 + 8 * c.val)).toNat =
      s.au.monitors[c].window.toNat + 65536 * s.au.monitors[c].threshold.toNat ∧
    (statusWord s (0x054 + 8 * c.val)).toNat =
      s.au.monitors[c].storedPeak.toNat + 65536 * s.au.monitors[c].storedCount.toNat) ∧
  (∀ s : State,
    (statusWord s 0x070).toNat = s.pu.refusedCount.toNat + 65536 * s.sq.lateCount.toNat ∧
    (statusWord s 0x074).toNat = s.sq.discardedCount.toNat + 65536 * s.au.underflowCount.toNat ∧
    (statusWord s 0x078).toNat = s.sq.cueErrorCount.toNat ∧ (statusWord s 0x07C).toNat = s.pu.lastRefused.toNat) ∧
  (∀ (s : State) (b : Fin 6) (i : Fin 32),
    (statusWord s (0x080 + 4 * b.val)).getLsbD i = s.wu.wanted.getLsbD (32 * b.val + i.val) ∧
    (statusWord s (0x0A0 + 4 * b.val)).getLsbD i = s.wu.applied.getLsbD (32 * b.val + i.val) ∧
    (statusWord s (0x0C0 + 4 * b.val)).getLsbD i = s.wu.deferred.getLsbD (32 * b.val + i.val)) ∧
  (∀ (s : State) (k : Fin 8),
    ((∀ p : Fin 16, s.wu.commanded[p] ≤ 1000) → (statusWord s (0x0E0 + 4 * k.val)).toNat =
      s.wu.commanded[2 * k.val]'(by omega) + 65536 * s.wu.commanded[2 * k.val + 1]'(by omega)) ∧
    ((∀ p : Fin 16, s.wu.output[p] ≤ 1000) → (statusWord s (0x100 + 4 * k.val)).toNat =
      s.wu.output[2 * k.val]'(by omega) + 65536 * s.wu.output[2 * k.val + 1]'(by omega))) ∧
  (∀ s : State,
    let named := fun (o : OpName) => match o with | .programRow r => 16 + 256 * r.val | .setLock => 32 | .eraseAll => 48
    (statusWord s 0x120).toNat =
      s.gu.debounced.toNat + 65536 * s.gu.matched.toNat + 16777216 * s.gu.latched.toNat ∧
    (statusWord s 0x124).toNat = s.gu.band.val + 65536 * s.gu.lastWind.toNat ∧
    (statusWord s 0x130).toNat =
      (match s.ls.tableState with | .blank => 0 | .invalid => 1 | .valid => 2) +
      (match s.ls.operation with | some o => named o.name | none => 0) + 65536 * s.ls.marks.toNat ∧
    (∀ k < 4, wordByte (statusWord s 0x134) k = s.ls.table.byte (1476 + k)) ∧
    (statusWord s 0x138).toNat =
      (match s.ls.lastCommand with
        | some c => c.code.toNat + 256 * c.rowField.toNat + 2147483648 +
          (match s.ls.outcome with
            | .none => 0 | .accepted => 65536 | .refusedProgEn => 131072 | .refusedArg => 196608
            | .refusedState => 262144 | .refusedBusy => 327680 | .refusedStaging => 393216 | .refusedLocked => 458752)
        | none => 0) ∧
    (statusWord s 0x13C).toNat =
      (match s.ls.lastCompletion with
        | some c => (match c.result with | .done => 1 | .verifyFault => 2) + named c.name
        | none => 0) ∧
    (statusWord s 0x140).toNat = s.ru.pending.toNat + 65536 * s.ru.enable.toNat ∧
    (s.ru.pending &&& s.ru.enable = 0 → statusWord s 0x144 = 0) ∧
    (∀ k : Fin 9, s.ru.pending.getLsbD k = true → s.ru.enable.getLsbD k = true →
      (∀ j : Fin 9, j < k → s.ru.pending.getLsbD j = false ∨ s.ru.enable.getLsbD j = false) →
      (statusWord s 0x144).toNat = k.val + 1)) ∧
  ∀ (s : State) (offset : Nat),
    (offset = 0x04C ∨ offset = 0x098 ∨ offset = 0x09C ∨ offset = 0x0B8 ∨ offset = 0x0BC ∨ offset = 0x0D8 ∨
      offset = 0x0DC ∨ offset = 0x128 ∨ offset = 0x12C ∨ 0x148 ≤ offset) →
    statusWord s offset = 0

/-! ## The limit store -/

/-- A full write to a staging word is copied and marked, unless a PROGRAM_ROW is in progress, when it is not copied; a partial
write to a staging word is not copied. -/
def Obligations.StagingWordCopied : Prop :=
  (∀ (s : State) (i : Fin 16) (value : Word) (burst : Bool), PathDecides burst s →
    Completes (.stagingWordWrite i value burst) s fun t =>
      (if s.ls.programming = true then t.ls = s.ls
      else
        (∀ j : Fin 16, t.ls.staging[j] = if j = i then value else s.ls.staging[j]) ∧
        (∀ j : Fin 16, t.ls.marks.getLsbD j = (s.ls.marks.getLsbD j || decide (j = i))) ∧
        t.ls = { s.ls with staging := t.ls.staging, marks := t.ls.marks }) ∧
      ShowKept s t ∧ t.wu = s.wu ∧ t.lu = s.lu ∧ t.gu = s.gu ∧ GroundKept s t ∧ FetchKept s t ∧ ReportKept s t ∧
      Posted (Config.stagingBase + 4 * i.val) value burst s t) ∧
  ∀ (s : State) (w : BusWrite) (progEn : Bool), PathDecides w.burst s → inWindow s.pu.base w.address = true →
    0x04000 ≤ windowOffset w.address → windowOffset w.address < 0x04040 → w.enables ≠ 15 →
    Completes (.processorWrite w progEn) s fun t =>
      ShowKept s t ∧ PlantKept s t ∧ GroundKept s t ∧ FetchKept s t ∧ ReportKept s t ∧ Forwarded w s t

/-- A limit command is tested in the order of R158, and the first test that fails decides the outcome: PROG_EN, the code and
row, the show state, an operation in progress, the staging marks and the lock. A refused command changes nothing but the
record of command and outcome; the record is made whatever the outcome. So is a word whose code or row field is unlawful:
recorded as written, with REFUSED_ARG, or with REFUSED_PROG_EN while PROG_EN is deasserted. A partial write to LIMIT_CMD is
forwarded and has no effect. -/
def Obligations.LimitCommandIsTested : Prop :=
  (∀ (s : State) (w : BusWrite) (progEn : Bool), PathDecides w.burst s → inWindow s.pu.base w.address = true →
    windowOffset w.address = 0x080 → w.enables = 15 →
    let code := (w.data.extractLsb' 0 8).toNat
    let row := (w.data.extractLsb' 8 8).toNat
    let outcome : LimitOutcome :=
      if progEn = false then .refusedProgEn
      else if ¬(code = 1 ∧ row ≤ 31 ∨ code = 2 ∨ code = 3 ∨ code = 4) then .refusedArg
      else if s.sq.state ≠ .idle then .refusedState
      else if s.ls.operation.isSome = true then .refusedBusy
      else if code = 1 ∧ s.ls.marks ≠ 0xFFFF then .refusedStaging
      else if code = 1 ∧ s.ls.locked = true then .refusedLocked
      else .accepted
    Completes (.processorWrite w progEn) s fun t =>
      t.ls.outcome = outcome ∧
      t.ls.lastCommand = some { code := w.data.extractLsb' 0 8, rowField := w.data.extractLsb' 8 8 } ∧
      (outcome ≠ .accepted →
        t.ls = { s.ls with outcome := t.ls.outcome, lastCommand := t.ls.lastCommand }) ∧
      t.ls.lastCompletion = s.ls.lastCompletion ∧ t.ls.table = s.ls.table ∧ t.ls.locked = s.ls.locked ∧
      t.ls.tableState = s.ls.tableState ∧
      ShowKept s t ∧ t.wu = s.wu ∧ t.lu = s.lu ∧ t.gu = s.gu ∧ GroundKept s t ∧ FetchKept s t ∧ ReportKept s t ∧ Forwarded w s t) ∧
  (∀ (s : State) (w : BusWrite) (progEn : Bool), PathDecides w.burst s → inWindow s.pu.base w.address = true →
    windowOffset w.address = 0x080 → w.enables ≠ 15 →
    Completes (.processorWrite w progEn) s fun t =>
      ShowKept s t ∧ PlantKept s t ∧ GroundKept s t ∧ FetchKept s t ∧ ReportKept s t ∧ Forwarded w s t) ∧
  ∀ (s : State) (word : Word) (progEn burst : Bool), PathDecides burst s →
    WellFormed (.limitCmdUnknownCode word progEn burst) = true →
    Completes (.limitCmdUnknownCode word progEn burst) s fun t =>
      t.ls = { s.ls with
        outcome := if progEn then .refusedArg else .refusedProgEn
        lastCommand := some { code := word.extractLsb' 0 8, rowField := word.extractLsb' 8 8 } } ∧
      ShowKept s t ∧ t.wu = s.wu ∧ t.lu = s.lu ∧ t.gu = s.gu ∧ GroundKept s t ∧ FetchKept s t ∧ ReportKept s t ∧
      Posted Config.limitCmd word burst s t

/-- In IDLE with PROG_EN asserted and no operation in progress, PROGRAM_ROW (every mark set, the cell unlocked), SET_LOCK and
ERASE_ALL start their operations, due 4, 4 and 40 ms after acceptance, with table, lock, table state and staging buffer left;
PROGRAM_ROW fixes the staging words as its data. The model fixes them for the others too, which do not use them. -/
def Obligations.LimitOperationsStart : Prop :=
  ∀ (s : State) (upper : Half) (rowField : Byte) (row : Fin 32) (burst : Bool), PathDecides burst s → s.sq.state = .idle →
    s.ls.operation = none →
    let started := fun (name : OpName) (ms : Nat) (code : Byte) (field : Byte) (t : State) =>
      t.ls = { s.ls with
        operation := some { name := name, words := s.ls.staging, dueMs := ms }
        outcome := .accepted
        lastCommand := some { code := code, rowField := field } } ∧
      ShowKept s t ∧ t.wu = s.wu ∧ t.lu = s.lu ∧ t.gu = s.gu ∧ GroundKept s t ∧ FetchKept s t ∧ ReportKept s t
    (s.ls.marks = 0xFFFF → s.ls.locked = false →
      Completes (.programRow row upper true burst) s (started (.programRow row) 4 0x01 (BitVec.ofNat 8 row.val))) ∧
    Completes (.setLock rowField upper true burst) s (started .setLock 4 0x03 rowField) ∧
    Completes (.eraseAll rowField upper true burst) s (started .eraseAll 40 0x02 rowField)

/-- An accepted CLEAR_STAGING sets every staging word to 0 and clears every mark, as one event. It starts no operation, raises
no cause, does not recompute the table state and leaves the last completion. -/
def Obligations.StagingCleared : Prop :=
  ∀ (s : State) (upper : Half) (rowField : Byte) (burst : Bool), PathDecides burst s → s.sq.state = .idle →
    s.ls.operation = none →
    Completes (.clearStaging rowField upper true burst) s fun t =>
      (∀ i : Fin 16, t.ls.staging[i] = 0) ∧
      t.ls = { s.ls with
        staging := t.ls.staging, marks := 0, outcome := .accepted
        lastCommand := some { code := 0x04, rowField := rowField } } ∧
      ShowKept s t ∧ t.wu = s.wu ∧ t.lu = s.lu ∧ t.gu = s.gu ∧ GroundKept s t ∧ FetchKept s t ∧ ReportKept s t

/-- A completion leaves no operation, records its result, recomputes the table state from the table it leaves and raises
LIMIT. PROGRAM_ROW stores the words fixed at acceptance, least significant byte first, or an erased row if the array does not
hold them, and clears the marks; SET_LOCK locks the cell; ERASE_ALL leaves every byte 0xFF and the cell unlocked. Every other
row, the staging words, the water and the light stand. A levels evaluation under the new table follows: exactly the entries
whose pattern holds with no edge are matched, the latching ones latched, and INTERLOCK is raised if there is one. Its lowest
TRIP entry takes an IDLE show to TRIPPED with that entry in the fault record and the others counted as secondary; in TRIPPED
every one is counted; without one the sequencer stands. A table is BLANK when every byte is 0xFF; VALID when it is not BLANK, the
CRC-32 of bytes 0 to 2,043 stands in bytes 2,044 to 2,047, least significant byte first, and every rule of R154 holds; and
INVALID otherwise. -/
def Obligations.CompletionsChangeTable : Prop :=
  (∀ (s : State) (o : Operation), s.inReset = false → s.ls.operation = some o →
    let evaluated := fun (t : State) =>
      let holds := fun (e : Nat) => decide (t.ls.tableState = .valid) && t.ls.table.patternHolds e s.gu.debounced none
      let trip := fun (e : Nat) => holds e && decide (t.ls.table.entryAction e = 3)
      let trips := (List.range 8).countP trip
      (∀ e : Fin 8, t.gu.matched.getLsbD e = holds e ∧
        t.gu.latched.getLsbD e = (holds e && t.ls.table.latching e)) ∧
      t.gu = { s.gu with matched := t.gu.matched, latched := t.gu.latched } ∧
      (∀ e : Fin 8, holds e = true → t.ru.pending.getLsbD 1 = true) ∧
      (s.sq.state.resting = true → trips = 0 → t.sq = s.sq) ∧
      (∀ e : Fin 8, s.sq.state = .idle → trip e = true → (∀ d : Fin 8, d < e → trip d = false) →
        t.sq = { s.sq with
          state := .tripped
          faultRecord := { first := some (.interlockTrip e), position := s.sq.position
                           secondary := BitVec.ofNat 8 (trips - 1) } } ∧
        t.ru.pending.getLsbD 0 = true) ∧
      (s.sq.state = .tripped →
        t.sq = { s.sq with faultRecord := { s.sq.faultRecord with secondary := t.sq.faultRecord.secondary } } ∧
        t.sq.faultRecord.secondary.toNat = min 255 (s.sq.faultRecord.secondary.toNat + trips))
    let completed := fun (result : CompletionResult) (t : State) =>
      t.ls.operation = none ∧ t.ls.lastCompletion = some { result := result, name := o.name } ∧
      t.ls.tableState = t.ls.table.state ∧ t.ls.staging = s.ls.staging ∧ t.ls.outcome = s.ls.outcome ∧
      t.ls.lastCommand = s.ls.lastCommand ∧ t.ru.pending.getLsbD 8 = true ∧ t.ru.enable = s.ru.enable ∧
      t.au = s.au ∧ (s.sq.state.resting = true → t.wu = s.wu ∧ t.lu = s.lu) ∧
      GroundKept s t ∧ FetchKept s t ∧ PathKept s t ∧ evaluated t
    (∀ (r : Fin 32) (holds : Bool), o.name = .programRow r → Completes (.programRowCompletion holds) s fun t =>
      completed (if holds then .done else .verifyFault) t ∧ t.ls.marks = 0 ∧ t.ls.locked = s.ls.locked ∧
      ∀ n : Nat, n < 2048 → t.ls.table.byte n =
        if n / 64 = r.val then
          if holds then (o.words[n % 64 / 4]?.getD 0).extractLsb' (8 * (n % 4)) 8 else 0xFF
        else s.ls.table.byte n) ∧
    (o.name = .setLock → Completes .setLockCompletion s fun t =>
      completed .done t ∧ t.ls.locked = true ∧ t.ls.marks = s.ls.marks ∧ t.ls.table = s.ls.table) ∧
    (o.name = .eraseAll → Completes .eraseAllCompletion s fun t =>
      completed .done t ∧ t.ls.locked = false ∧ t.ls.marks = s.ls.marks ∧
      t.ls.tableState = .blank ∧ ∀ n : Nat, n < 2048 → t.ls.table.byte n = 0xFF)) ∧
  ∀ x : LimitTable,
    let byte := fun (n : Nat) => (x.byte n).toNat
    let half := fun (n : Nat) => byte n + 256 * byte (n + 1)
    let between := fun (low high n : Nat) => low ≤ n ∧ n ≤ high
    let blank := ∀ n < 2048, byte n = 255
    let check := (crc32Bits ((List.range 2044).flatMap (fun n => lsbFirst (x.byte n)))).toNat = half 2044 + 65536 * half 2046
    let lawful :=
      (∀ p < 16, byte (16 * p) ≤ 3 ∧ byte (16 * p + 1) ≤ 32 ∧ half (16 * p + 2) ≤ half (16 * p + 4) ∧
        half (16 * p + 4) ≤ 1000 ∧ between 1 1000 (half (16 * p + 6)) ∧ between 1 1000 (half (16 * p + 8)) ∧
        between 1 1000 (half (16 * p + 10)) ∧ half (16 * p + 12) ≤ 8000) ∧
      (∀ v < 192, half (640 + 2 * v) ≤ 8000) ∧ (∀ g < 64, half (1024 + 4 * g) ≤ 4000) ∧ between 1 10 (byte 1280) ∧
      half 1282 < half 1284 ∧ half 1284 < half 1286 ∧
      half 1288 < half 1282 ∧ half 1290 < half 1284 ∧ half 1292 < half 1286 ∧
      (∀ c < 4, ∀ b < 4, half (1296 + 8 * c + 2 * b) ≤ 1000) ∧
      (∀ e < 8, (∀ k < 8, byte (1344 + 16 * e + k) % 16 ≤ 5 ∧ byte (1344 + 16 * e + k) / 16 ≤ 5) ∧
        byte (1344 + 16 * e + 8) ≤ 1 ∧ byte (1344 + 16 * e + 9) ≤ 3 ∧ half (1344 + 16 * e + 10) ≤ 1000) ∧
      between 100 10000 (half 1472) ∧ 1 ≤ byte 1474 ∧ half 1480 ≤ 1023
    (x.state = .blank ↔ blank) ∧ (x.state = .valid ↔ (¬blank ∧ check ∧ lawful)) ∧
    (x.state = .invalid ↔ (¬blank ∧ ¬(check ∧ lawful)))

/-! ## Entry to RUNNING -/

/-- Once 512 frames are in the FIFO, or the music is no longer due, a PRIMING show goes to ARMED in wait mode and to RUNNING
in immediate mode, and an ARMED show goes to RUNNING at a rising edge on SYNC_IN; while a HOLD entry is matched, HELD for
INTERLOCK takes the place of RUNNING. In every other state, or with priming not complete, nothing happens. That
PRIMING_COMPLETE acts by itself exactly when priming can complete is the model's choice (log entry 5). -/
def Obligations.RunningIsEntered : Prop :=
  ∀ s : State, s.inReset = false →
    let entered := { s.sq with
      state := if anyMatched s .hold = true then .held else .running
      holdInterlock := s.sq.holdInterlock || anyMatched s .hold }
    let complete := 512 ≤ s.au.fifo.length ∨ (s.fu.final = true ∧ s.fu.audioFetch = s.fu.audioMark)
    let kept := fun t => t.au = s.au ∧ PlantKept s t ∧ GroundKept s t ∧ FetchKept s t ∧ PathKept s t ∧ ReportKept s t
    (s.sq.state = .priming → complete → s.sq.sync = .immediate →
      Completes .primingComplete s fun t => t.sq = entered ∧ kept t) ∧
    (s.sq.state = .priming → complete → s.sq.sync = .wait →
      Completes .primingComplete s fun t => t.sq = { s.sq with state := .armed } ∧ kept t) ∧
    ((s.sq.state ≠ .priming ∨ ¬complete) → Completes .primingComplete s (NothingDone s)) ∧
    (s.sq.state = .armed → Completes .syncInRising s fun t => t.sq = entered ∧ kept t) ∧
    (s.sq.state ≠ .armed → Completes .syncInRising s (NothingDone s))

/-! ## Cue records -/

/-- A record is a cue error exactly as R49 lists it. A record that is no cue error expands by its kind: a VALVES record into one
entry for each mask bit, open by its states bit, in ascending order; a LIGHT record into one entry for each group of its run,
in ascending order, with one colour and fade; the other kinds into one entry. -/
def Obligations.RecordsExpandByKind : Prop :=
  (∀ r : CueRecord,
    let kind := (r.word0.extractLsb' 8 4).toNat
    let target := (r.word0.extractLsb' 16 16).toNat
    let count := (r.word3.extractLsb' 16 10).toNat
    r.actions = none ↔
      (kind = 0 ∨ 7 ≤ kind) ∨
      (kind = 1 ∧ (5 < target ∨ r.word2 = 0)) ∨
      (kind = 2 ∧ (15 < target ∨ 1000 < r.word2.toNat)) ∨
      (kind = 3 ∧ (63 < target ∨ count = 0 ∨ 64 < target + count)) ∨
      (kind = 4 ∧ (63 < target ∨ (3 < r.word2.toNat ∧ r.word2.toNat ≠ 255)))) ∧
  ∀ (r : CueRecord) (acts : List Action), r.actions = some acts →
    let kind := (r.word0.extractLsb' 8 4).toNat
    let target := (r.word0.extractLsb' 16 16).toNat
    let count := (r.word3.extractLsb' 16 10).toNat
    (kind = 1 →
      (∀ (v : Fin 192) (o : Bool), .valve v o ∈ acts ↔
        (v.val / 32 = target ∧ r.word2.getLsbD (v.val % 32) = true ∧ r.word3.getLsbD (v.val % 32) = o)) ∧
      (∀ a ∈ acts, ∃ v o, a = .valve v o) ∧
      acts.Pairwise (fun a b => ∀ v o w q, a = .valve v o → b = .valve w q → v < w)) ∧
    (kind = 2 → ∃ p : Fin 16, p.val = target ∧ acts = [.pump p r.word2.toNat]) ∧
    (kind = 3 → acts.length = count ∧
      ∀ i < count, ∃ g : Fin 64, g.val = target + i ∧
        acts[i]? = some (.light g
          { red := r.word2.extractLsb' 0 8, green := r.word2.extractLsb' 8 8
            blue := r.word2.extractLsb' 16 8, white := r.word2.extractLsb' 24 8 } (r.word3.extractLsb' 0 10))) ∧
    (kind = 4 → ∃ g : Fin 64, g.val = target ∧
      ((r.word2.toNat = 255 ∧ acts = [.follow g none]) ∨
        ∃ c : Fin 4, r.word2.toNat = c.val ∧ acts = [.follow g (some c)])) ∧
    (kind = 5 → acts = [.mark (r.word0.extractLsb' 16 16) (r.word0.getLsbD 12)]) ∧
    (kind = 6 → acts = [.endShow])

/-- An accepted head record that now has room is expanded: its entries, due at their leads and lags from the cue time and late
when due below the position, are inserted one after another, each after every entry due at or below it; late entries are
counted, the record leaves the buffer, and the record behind it, if any, is examined, unless an advance comes next and is taken
first: then it divides the run, and the record behind waits for it. Which of the two is taken first is a free value, read at a
number of its own at each such meeting (log entry 20). With too little room, with no accepted head, or outside a live show,
WINDDOWN among them, nothing happens. A VALVE or PUMP entry is due its lead before the cue time and no earlier than 0; a LIGHT
or FOLLOW entry its lag after it and no later than 4,294,967,295; a MARK or END entry at it. That WAITING_RECORD_EXPANSION acts
by itself whenever the head has room is the model's choice (log entry 5). -/
def Obligations.WaitingRecordExpands : Prop :=
  (∀ s : State, s.inReset = false →
    (∀ r acts, s.sq.state.live = true → s.sq.headAccepted = true → s.fu.cueBuffer = [r] → r.actions = some acts →
      s.sq.table.length + acts.length ≤ 512 →
      Completes .waitingRecordExpansion s fun t =>
        t.sq = { withEntries s.sq r acts with headAccepted := false } ∧
        t.fu = { s.fu with cueBuffer := [], fetchRequest := t.fu.fetchRequest } ∧
        t.au = s.au ∧ PlantKept s t ∧ GroundKept s t ∧ PathKept s t ∧ ReportKept s t) ∧
    (∀ r q acts, s.sq.state.live = true → s.sq.headAccepted = true → s.fu.cueBlocked = false →
      s.fu.cueBuffer = [r, q] → r.actions = some acts → s.sq.table.length + acts.length ≤ 512 →
      Completes .waitingRecordExpansion s fun t =>
        let expanded := { withEntries s.sq r acts with headAccepted := false }
        let x := examinedHead expanded s.fu.expectedSequence q
        (if AdvanceNext s ∧ Config.advanceDivides s.meetings = true then
          t.sq = { expanded with runDivided := true } ∧
          t.fu = { s.fu with cueBuffer := [q], fetchRequest := t.fu.fetchRequest } ∧ ReportKept s t
        else
          t.sq = x.sq ∧
          t.fu = { s.fu with
            cueBuffer := x.buffer, expectedSequence := x.expected, cueBlocked := x.blocked
            fetchRequest := t.fu.fetchRequest } ∧
          t.ru = { s.ru with
            pending := s.ru.pending ||| (if x.raised then 8 else 0), attention := t.ru.attention }) ∧
        t.meetings = s.meetings + (if AdvanceNext s then 1 else 0) ∧
        t.au = s.au ∧ PlantKept s t ∧ GroundKept s t ∧ PathKept s t) ∧
    (∀ r rest acts, s.sq.headAccepted = true → s.fu.cueBuffer = r :: rest → r.actions = some acts →
      512 < s.sq.table.length + acts.length → Completes .waitingRecordExpansion s (NothingDone s)) ∧
    (s.sq.headAccepted = false → Completes .waitingRecordExpansion s (NothingDone s)) ∧
    (s.sq.state.live = false → Completes .waitingRecordExpansion s (NothingDone s))) ∧
  ∀ (x : Sequencer) (time : Word),
    (∀ v o, (dueOf x time (.valve v o)).toNat = time.toNat - x.valveLeads[v]) ∧
    (∀ p speed, (dueOf x time (.pump p speed)).toNat = time.toNat - x.pumpLeads[p]) ∧
    (∀ g colour fade, (dueOf x time (.light g colour fade)).toNat = min 4294967295 (time.toNat + x.lightLags[g])) ∧
    (∀ g c, (dueOf x time (.follow g c)).toNat = min 4294967295 (time.toNat + x.lightLags[g])) ∧
    (∀ n k, dueOf x time (.mark n k) = time) ∧ dueOf x time .endShow = time

/-! ## The frame period -/

/-- A frame period of a RUNNING show that takes a frame, or finds the ring drained, advances the position by one; the frame
taken leaves the FIFO, and with no entry due nothing else of the sequencer changes, and nothing of water, guard or limits.
Without an END among them, exactly the entries at the front of the table due at or below the position reached are released, and
the source of the last of them is the last released sequence. A head that waited for room is then tried again: with room it is
expanded at the position reached and the record behind it, if any, is examined; with too little room it goes on waiting. Where
the advance divides a run, the run goes on when the releases are done: its next record, the head, is examined at the position
reached. Last comes the at-mark hold, if a MARK was released with the hold-pending mode at-mark. A show that goes on running may
meet a further advance between the head that leaves and the record behind it; which of the two is taken first is a free value
(log entry 20). -/
def Obligations.FramePeriodAdvances : Prop :=
  (∀ s : State, s.inReset = false → s.au.clock.isSome = true → s.sq.state = .running →
    s.sq.position ≠ 0xFFFFFFFF →
    (∀ e, s.sq.table.head? = some e → s.sq.position.toNat + 1 < e.due.toNat) →
    (s.au.fifo ≠ [] ∨ (s.fu.final = true ∧ s.fu.audioFetch = s.fu.audioMark)) →
    let kept := fun (t : State) => t.au.fifo = s.au.fifo.tail ∧
      t.au.underflowCount = s.au.underflowCount ∧ t.au.muteSet = s.au.muteSet ∧ t.au.clock = s.au.clock ∧
      t.wu = s.wu ∧ t.gu = s.gu ∧ t.ls = s.ls ∧ GroundKept s t ∧ PathKept s t
    (s.sq.runDivided = false → Completes .framePeriod s fun t =>
      t.sq = { s.sq with position := s.sq.position + 1 } ∧ FetchKept s t ∧ ReportKept s t ∧ kept t) ∧
    ∀ q, s.sq.runDivided = true → s.fu.cueBuffer = [q] → s.sq.headAccepted = false → s.fu.cueBlocked = false →
      Completes .framePeriod s fun t =>
        let x := examinedHead
          { s.sq with position := s.sq.position + 1, runDivided := false } s.fu.expectedSequence q
        t.sq = x.sq ∧
        t.fu = { s.fu with
          cueBuffer := x.buffer, expectedSequence := x.expected, cueBlocked := x.blocked
          fetchRequest := t.fu.fetchRequest } ∧
        t.ru = { s.ru with
          pending := s.ru.pending ||| (if x.raised then 8 else 0), attention := t.ru.attention } ∧
        kept t) ∧
  ∀ (s : State) (due later : List ReleaseEntry) (last : ReleaseEntry), s.inReset = false → s.au.clock.isSome = true →
    s.sq.state = .running → s.sq.position ≠ 0xFFFFFFFF →
    (s.au.fifo ≠ [] ∨ (s.fu.final = true ∧ s.fu.audioFetch = s.fu.audioMark)) →
    s.sq.table = due ++ last :: later →
    (∀ e ∈ due ++ [last], e.due.toNat ≤ s.sq.position.toNat + 1 ∧ e.action ≠ .endShow) →
    (∀ x, later.head? = some x → s.sq.position.toNat + 1 < x.due.toNat) →
    let held := s.sq.holdPending = .atMark ∧ (due ++ [last]).any (fun e => e.action.isMark) = true
    let meets := s.pending.head? = some .framePeriod ∧ s.sq.position.toNat + 1 ≠ 4294967295 ∧
      (s.au.fifo.tail ≠ [] ∨ (s.fu.final = true ∧ s.fu.audioFetch = s.fu.audioMark))
    let released : Sequencer :=
      { s.sq with
        position := s.sq.position + 1, table := later, lastReleased := some last.source, runDivided := false }
    let reached := fun (x : Sequencer) (t : State) =>
      t.sq = { x with
        lastMark := t.sq.lastMark
        state := if held then .held else .running
        holdHost := if held then true else s.sq.holdHost
        holdPending := if held then .clear else s.sq.holdPending } ∧
      t.au.fifo = s.au.fifo.tail ∧ t.wu.output = s.wu.output ∧ t.gu = s.gu ∧ t.ls = s.ls ∧ GroundKept s t ∧ PathKept s t
    let examined := fun (x : Examined) (t : State) =>
      reached x.sq t ∧
      t.fu = { s.fu with
        cueBuffer := x.buffer, expectedSequence := x.expected, cueBlocked := x.blocked
        fetchRequest := t.fu.fetchRequest } ∧
      (x.raised = true → t.ru.pending.getLsbD 3 = true)
    (s.sq.headAccepted = false → s.sq.runDivided = false →
      Completes .framePeriod s fun t => reached released t ∧ FetchKept s t) ∧
    (∀ q, s.sq.headAccepted = false → s.sq.runDivided = true → s.fu.cueBuffer = [q] → s.fu.cueBlocked = false →
      Completes .framePeriod s (examined (examinedHead released s.fu.expectedSequence q))) ∧
    ∀ r acts, s.sq.headAccepted = true → s.sq.runDivided = false → r.actions = some acts →
      let expanded := { withEntries released r acts with headAccepted := false }
      (s.fu.cueBuffer = [r] → later.length + acts.length ≤ 512 → Completes .framePeriod s fun t =>
        reached expanded t ∧ t.fu = { s.fu with cueBuffer := [], fetchRequest := t.fu.fetchRequest }) ∧
      (∀ q, s.fu.cueBuffer = [r, q] → s.fu.cueBlocked = false → later.length + acts.length ≤ 512 →
        Completes .framePeriod s fun t =>
          if ¬held ∧ meets ∧ Config.advanceDivides s.meetings = true then
            reached { expanded with runDivided := true } t ∧
            t.fu = { s.fu with cueBuffer := [q], fetchRequest := t.fu.fetchRequest }
          else examined (examinedHead expanded s.fu.expectedSequence q) t) ∧
      (∀ rest, s.fu.cueBuffer = r :: rest → 512 < later.length + acts.length →
        Completes .framePeriod s fun t => reached released t ∧ FetchKept s t)

/-- A frame period that does not advance. RUNNING with an empty FIFO and music due starves: STARVED with a starve count of 0,
one underflow counted and STARVED raised. RUNNING at the last position raises POSITION_LIMIT: the position stands, the frame
has left the FIFO, fault wind-down begins. PRIMING, ARMED, HELD and WINDDOWN take nothing and change nothing of the
sequencer. With the clock stopped there is no frame period. -/
def Obligations.FramePeriodWithoutAdvance : Prop :=
  ∀ s : State, s.inReset = false →
    let finished := s.fu.final = true ∧ s.fu.audioFetch = s.fu.audioMark
    (s.au.clock.isSome = true → s.sq.state = .running → s.au.fifo = [] → ¬finished → Completes .framePeriod s fun t =>
      t.sq = { s.sq with state := .starved, starveCount := 0 } ∧ t.au.fifo = [] ∧
      t.au.underflowCount.toNat = min 65535 (s.au.underflowCount.toNat + 1) ∧ ReportRaised .starved s t ∧
      t.wu = s.wu ∧ t.gu = s.gu ∧ t.ls = s.ls ∧ GroundKept s t ∧ FetchKept s t ∧ PathKept s t) ∧
    (s.au.clock.isSome = true → s.sq.state = .running → s.sq.position = 0xFFFFFFFF → (s.au.fifo ≠ [] ∨ finished) →
      Completes .framePeriod s fun t =>
        t.sq.state = .winddown ∧ t.sq.kind = .fault ∧ t.sq.position = s.sq.position ∧
        t.sq.faultRecord = { first := some .positionLimit, position := 0xFFFFFFFF, secondary := 0 } ∧
        t.sq.table = [] ∧ t.au.fifo = s.au.fifo.tail ∧ ReportRaised .fault s t ∧
        t.wu.wanted = 0 ∧ (∀ p : Fin 16, t.wu.commanded[p] = 0) ∧ t.wu.output = s.wu.output ∧ GroundKept s t) ∧
    (s.au.clock.isSome = true →
      (s.sq.state = .priming ∨ s.sq.state = .armed ∨ s.sq.state = .held ∨ s.sq.state = .winddown) →
      Completes .framePeriod s fun t =>
        t.sq = s.sq ∧ t.au.fifo = s.au.fifo ∧ t.au.underflowCount = s.au.underflowCount ∧
        (∃ first, t.au.lines = .shifting (Vector.replicate 4 0) first) ∧
        t.wu = s.wu ∧ t.gu = s.gu ∧ t.ls = s.ls ∧ GroundKept s t ∧ FetchKept s t ∧ PathKept s t ∧ ReportKept s t) ∧
    (s.au.clock = none → Completes .framePeriod s (NothingDone s))

/-- A STARVED show whose resume test passes, with 64 frames in the FIFO or the music no longer due, returns to RUNNING in that
frame period and advances; with no entry due the starve count is left, and where the advance divides a run, its next record is
examined at the position reached. Without an END among them, the entries due at or below
the position reached are released. At the last position the advance is a POSITION_LIMIT: the frame has left the FIFO, the
position stands, and fault wind-down begins. One whose test fails counts one more starved period,
below the converted limit, and takes nothing. STARVED_RESUME is the frame period in which the test passes, and does nothing
where it fails (log entry 5). -/
def Obligations.StarvedShowResumesOrCounts : Prop :=
  ∀ s : State, s.inReset = false → s.au.clock.isSome = true → s.sq.state = .starved →
    let passes := 64 ≤ s.au.fifo.length ∨ (s.fu.final = true ∧ s.fu.audioFetch = s.fu.audioMark)
    (passes → s.sq.position ≠ 0xFFFFFFFF →
      (∀ e, s.sq.table.head? = some e → s.sq.position.toNat + 1 < e.due.toNat) →
      ∀ c, c = .framePeriod ∨ c = .starvedResume →
        let resumed : Sequencer := { s.sq with state := .running, position := s.sq.position + 1, runDivided := false }
        let kept := fun (t : State) => t.au.fifo = s.au.fifo.tail ∧ t.au.underflowCount = s.au.underflowCount ∧
          t.wu = s.wu ∧ t.gu = s.gu ∧ t.ls = s.ls ∧ GroundKept s t ∧ PathKept s t
        (s.sq.runDivided = false → Completes c s fun t =>
          t.sq = resumed ∧ FetchKept s t ∧ ReportKept s t ∧ kept t) ∧
        ∀ q, s.sq.runDivided = true → s.fu.cueBuffer = [q] → s.sq.headAccepted = false → s.fu.cueBlocked = false →
          Completes c s fun t =>
            let x := examinedHead resumed s.fu.expectedSequence q
            t.sq = x.sq ∧
            t.fu = { s.fu with
              cueBuffer := x.buffer, expectedSequence := x.expected, cueBlocked := x.blocked
              fetchRequest := t.fu.fetchRequest } ∧
            t.ru = { s.ru with
              pending := s.ru.pending ||| (if x.raised then 8 else 0), attention := t.ru.attention } ∧
            kept t) ∧
    (∀ (due later : List ReleaseEntry) (last : ReleaseEntry), passes → s.sq.position ≠ 0xFFFFFFFF →
      s.sq.headAccepted = false → s.sq.runDivided = false → s.sq.table = due ++ last :: later →
      (∀ e ∈ due ++ [last], e.due.toNat ≤ s.sq.position.toNat + 1 ∧ e.action ≠ .endShow) →
      (∀ x, later.head? = some x → s.sq.position.toNat + 1 < x.due.toNat) →
      let held := s.sq.holdPending = .atMark ∧ (due ++ [last]).any (fun e => e.action.isMark) = true
      ∀ c, c = .framePeriod ∨ c = .starvedResume → Completes c s fun t =>
        t.sq = { s.sq with
          position := s.sq.position + 1, table := later, lastReleased := some last.source, lastMark := t.sq.lastMark
          state := if held then .held else .running
          holdHost := if held then true else s.sq.holdHost
          holdPending := if held then .clear else s.sq.holdPending } ∧
        t.au.fifo = s.au.fifo.tail ∧ t.au.underflowCount = s.au.underflowCount ∧ t.wu.output = s.wu.output ∧
        t.gu = s.gu ∧ t.ls = s.ls ∧ GroundKept s t ∧ FetchKept s t ∧ PathKept s t) ∧
    (passes → s.sq.position = 0xFFFFFFFF →
      ∀ c, c = .framePeriod ∨ c = .starvedResume → Completes c s fun t =>
        t.sq.state = .winddown ∧ t.sq.kind = .fault ∧ t.sq.position = s.sq.position ∧ t.sq.starveCount = 0 ∧
        t.sq.faultRecord = { first := some .positionLimit, position := 0xFFFFFFFF, secondary := 0 } ∧
        t.sq.table = [] ∧ t.sq.discardedCount = saturate16 s.sq.discardedCount s.sq.table.length ∧
        t.au.fifo = s.au.fifo.tail ∧ ReportRaised .fault s t ∧
        t.wu.wanted = 0 ∧ (∀ p : Fin 16, t.wu.commanded[p] = 0) ∧ t.wu.output = s.wu.output ∧
        t.gu = s.gu ∧ t.ls = s.ls ∧ GroundKept s t) ∧
    (¬passes → s.sq.starveCount + 1 ≠ s.sq.starveLimit → Completes .framePeriod s fun t =>
      t.sq = { s.sq with starveCount := s.sq.starveCount + 1 } ∧ t.au.fifo = s.au.fifo ∧
      t.au.underflowCount = s.au.underflowCount ∧
      t.wu = s.wu ∧ t.gu = s.gu ∧ t.ls = s.ls ∧ GroundKept s t ∧ FetchKept s t ∧ PathKept s t ∧ ReportKept s t) ∧
    (¬passes → Completes .starvedResume s (NothingDone s))

/-- When the starve count of a STARVED show reaches the converted limit, STARVE_LIMIT begins fault wind-down: the record is
filled with the cause and the position, FAULT is raised, the release table is discarded, and every group goes to its safe
level with no fade. It comes in the frame period that counts to the limit, and by its own row when the count stands at it. -/
def Obligations.StarveLimitTrips : Prop :=
  ∀ s : State, s.inReset = false → s.sq.state = .starved →
    let tripped := fun (t : State) =>
      t.sq.state = .winddown ∧ t.sq.kind = .fault ∧ t.sq.position = s.sq.position ∧ t.sq.starveCount = 0 ∧
      t.sq.faultRecord = { first := some .starveLimit, position := s.sq.position, secondary := 0 } ∧
      t.sq.table = [] ∧ t.sq.discardedCount = saturate16 s.sq.discardedCount s.sq.table.length ∧
      ReportRaised .fault s t ∧ t.wu.wanted = 0 ∧ (∀ p : Fin 16, t.wu.commanded[p] = 0) ∧ t.wu.output = s.wu.output ∧
      (∀ g : Fin 64, t.lu.groups[g].target = Colour.level (s.ls.table.safeLevel g) ∧ t.lu.groups[g].fade = 0 ∧
        t.lu.groups[g].follow = none ∧ t.lu.groups[g].current = s.lu.groups[g].current) ∧
      t.au.fifo = s.au.fifo ∧ t.gu = s.gu ∧ t.ls = s.ls ∧ GroundKept s t ∧ FetchKept s t
    (s.sq.starveCount = s.sq.starveLimit → Completes .starveLimit s tripped) ∧
    (s.au.clock.isSome = true → s.sq.starveCount + 1 = s.sq.starveLimit → s.au.fifo.length < 64 →
      ¬(s.fu.final = true ∧ s.fu.audioFetch = s.fu.audioMark) → Completes .framePeriod s tripped)

/-- The entry at the front of the table, alone in being due at the position an advance reaches, is delivered to the water
unit. A VALVE open sets the valve open in both images and withdraws a deferred close. A VALVE close of a wanted-open valve
sets it closed in the wanted image, and closes it in the applied image unless a pump above its idle speed, with the valve on
its header, is left with a wanted open count below its min-open count, when the close is deferred. A PUMP entry sets the
commanded speed. No output moves. -/
def Obligations.WaterEntryDelivered : Prop :=
  ∀ (s : State) (e : ReleaseEntry) (later : List ReleaseEntry), s.inReset = false → s.au.clock.isSome = true →
    s.sq.state = .running → s.sq.position ≠ 0xFFFFFFFF → s.au.fifo ≠ [] → s.sq.headAccepted = false →
    s.sq.runDivided = false →
    s.sq.table = e :: later → e.due.toNat ≤ s.sq.position.toNat + 1 →
    (∀ x, later.head? = some x → s.sq.position.toNat + 1 < x.due.toNat) →
    let released := { s.sq with position := s.sq.position + 1, table := later, lastReleased := some e.source }
    let kept := fun t => t.gu = s.gu ∧ t.ls = s.ls ∧ GroundKept s t ∧ FetchKept s t ∧ PathKept s t ∧ ReportKept s t
    (∀ v : Fin 192, e.action = .valve v true → Completes .framePeriod s fun t =>
      t.sq = released ∧
      (∀ w : Fin 192, t.wu.wanted.getLsbD w = (s.wu.wanted.getLsbD w || decide (w = v)) ∧
        t.wu.applied.getLsbD w = (s.wu.applied.getLsbD w || decide (w = v)) ∧
        t.wu.deferred.getLsbD w = (s.wu.deferred.getLsbD w && decide (w ≠ v))) ∧
      t.wu.commanded = s.wu.commanded ∧ t.wu.output = s.wu.output ∧ kept t) ∧
    (∀ v : Fin 192, e.action = .valve v false → s.wu.wanted.getLsbD v = true → Completes .framePeriod s fun t =>
      t.sq = released ∧
      let blocked := ∃ p : Fin 16, s.ls.table.idleSpeed p < s.wu.output[p] ∧ s.ls.table.onHeader p v = true ∧
        (List.range 192).countP (fun w => decide (w ≠ v.val) && s.wu.wanted.getLsbD w && s.ls.table.onHeader p w) <
          s.ls.table.minOpen p
      (∀ w : Fin 192, t.wu.wanted.getLsbD w = (s.wu.wanted.getLsbD w && decide (w ≠ v)) ∧
        (t.wu.applied.getLsbD w = true ↔ (s.wu.applied.getLsbD w = true ∧ (w ≠ v ∨ blocked))) ∧
        (t.wu.deferred.getLsbD w = true ↔ (s.wu.deferred.getLsbD w = true ∨ (w = v ∧ blocked)))) ∧
      t.wu.commanded = s.wu.commanded ∧ t.wu.output = s.wu.output ∧ kept t) ∧
    (∀ v : Fin 192, e.action = .valve v false → s.wu.wanted.getLsbD v = false → Completes .framePeriod s fun t =>
      t.sq = released ∧ t.wu = s.wu ∧ kept t) ∧
    (∀ (p : Fin 16) (speed : Nat), e.action = .pump p speed → Completes .framePeriod s fun t =>
      t.sq = released ∧ (∀ q : Fin 16, t.wu.commanded[q] = if q = p then speed else s.wu.commanded[q]) ∧
      t.wu = { s.wu with commanded := t.wu.commanded } ∧ kept t)

/-- The entry at the front of the table, alone in being due, is delivered to the light unit or taken by the sequencer: LIGHT
sets target and fade, FOLLOW binds at the latest peak or unbinds, and MARK sets the last mark with the position reached,
raises MARK if it notifies, and holds the show for HOST when the hold-pending mode is at-mark. The monitors are off here, so
that no window end moves a scale in the same period. -/
def Obligations.LightAndMarkEntriesDelivered : Prop :=
  ∀ (s : State) (e : ReleaseEntry) (later : List ReleaseEntry), s.inReset = false → s.au.clock.isSome = true →
    s.sq.state = .running → s.sq.position ≠ 0xFFFFFFFF → s.au.fifo ≠ [] → s.sq.headAccepted = false →
    s.sq.runDivided = false →
    (∀ c : Fin 4, s.au.monitors[c].window = 0) →
    s.sq.table = e :: later → e.due.toNat ≤ s.sq.position.toNat + 1 →
    (∀ x, later.head? = some x → s.sq.position.toNat + 1 < x.due.toNat) →
    let released := { s.sq with position := s.sq.position + 1, table := later, lastReleased := some e.source }
    let kept := fun t => t.wu = s.wu ∧ t.gu = s.gu ∧ t.ls = s.ls ∧ GroundKept s t ∧ FetchKept s t ∧ PathKept s t
    (∀ (g : Fin 64) (colour : Colour) (fade : BitVec 10), e.action = .light g colour fade →
      Completes .framePeriod s fun t =>
        t.sq = released ∧ kept t ∧ ReportKept s t ∧ t.lu.latestPeak = s.lu.latestPeak ∧
        ∀ h : Fin 64, t.lu.groups[h] =
          if h = g then { s.lu.groups[h] with target := colour, fade := fade } else s.lu.groups[h]) ∧
    (∀ (g : Fin 64) (channel : Option (Fin 4)), e.action = .follow g channel →
      Completes .framePeriod s fun t =>
        t.sq = released ∧ kept t ∧ ReportKept s t ∧ t.lu.latestPeak = s.lu.latestPeak ∧
        ∀ h : Fin 64, t.lu.groups[h] =
          if h = g then
            { s.lu.groups[h] with
              follow := channel
              scale := match channel with | some c => s.lu.latestPeak[c] | none => 0 }
          else s.lu.groups[h]) ∧
    (∀ (number : Half) (notify : Bool), e.action = .mark number notify →
      Completes .framePeriod s fun t =>
        kept t ∧ t.lu = s.lu ∧ (if notify then ReportRaised .mark s t else ReportKept s t) ∧
        let marked := { released with lastMark := some { number := number, position := s.sq.position + 1 } }
        t.sq =
          if s.sq.holdPending = .atMark then { marked with state := .held, holdHost := true, holdPending := .clear }
          else marked)

/-- An END entry released at an advance begins normal wind-down at the position reached and ends the releases: the entries
behind it, due or not, are discarded and counted, and an at-mark hold is not taken. -/
def Obligations.EndBeginsWinddown : Prop :=
  ∀ (s : State) (e : ReleaseEntry) (later : List ReleaseEntry), s.inReset = false → s.au.clock.isSome = true →
    s.sq.state = .running → s.sq.position ≠ 0xFFFFFFFF → s.au.fifo ≠ [] →
    s.sq.table = e :: later → e.due.toNat ≤ s.sq.position.toNat + 1 → e.action = .endShow →
    Completes .framePeriod s fun t =>
      t.sq = { s.sq with
        state := .winddown, kind := .normal, position := s.sq.position + 1
        holdHost := false, holdInterlock := false, holdPending := .clear, starveCount := 0
        table := [], runDivided := false, colourTaken := false, lastReleased := some e.source
        discardedCount := saturate16 s.sq.discardedCount later.length } ∧
      t.wu.wanted = 0 ∧ (∀ p : Fin 16, t.wu.commanded[p] = 0) ∧ t.wu.output = s.wu.output ∧
      (∀ g : Fin 64, t.lu.groups[g].target = Colour.level (s.ls.table.safeLevel g) ∧
        t.lu.groups[g].fade = BitVec.ofNat 10 s.ls.table.winddownFade ∧ t.lu.groups[g].follow = none) ∧
      t.au.fifo = s.au.fifo.tail ∧ t.gu = s.gu ∧ t.ls = s.ls ∧ GroundKept s t ∧ FetchKept s t ∧ ReportKept s t

/-- At each frame period every monitor that is on, with its channel unmuted, takes the sample emitted: the head frame's when a
frame is taken, 0 otherwise. It raises its running peak to a greater magnitude and counts a magnitude at the threshold; when
its frames counted reach the window length it stores both and begins afresh, the light unit taking the peak. The monitors
that are off or muted are left, and a muted channel emits 0. The sample goes out most significant bit first, one bit for each
ABCK period, an even channel while AFCK is low and an odd one while it is high, channels 0 and 1 on AD0 and 2 and 3 on AD1,
ABCK low and then high in each period (log entry 16); the
period begins with a falling edge of AFCK exactly when AFCK stood high before it, which it does not at the first of a show. The
peak magnitude of a sample is its absolute value, and 32,767 for -32,768. WINDOW_END by its own
row acts on a complete window alone (log entry 5). -/
def Obligations.MonitorsTakeEmittedSamples : Prop :=
  (∀ x : Half, (magnitude x).toNat = if x.toInt = -32768 then 32767 else x.toInt.natAbs) ∧
  (∀ s : State, s.inReset = false → s.au.clock.isSome = true → MonitorsSound s →
    Completes .framePeriod s fun t =>
      ∀ c : Fin 4,
        let m := s.au.monitors[c]
        let taken := (s.sq.state = .running ∨ (s.sq.state = .starved ∧
          (64 ≤ s.au.fifo.length ∨ (s.fu.final = true ∧ s.fu.audioFetch = s.fu.audioMark)))) ∧ s.au.fifo ≠ []
        let sample := if taken ∧ isMuted s c = false then (s.au.fifo.headD Frame.silent).sample c else 0
        let peak := if m.peak.toNat < (magnitude sample).toNat then magnitude sample else m.peak
        let count := if m.threshold.toNat ≤ (magnitude sample).toNat then m.count + 1 else m.count
        (∃ samples first, t.au.lines = .shifting samples first ∧ samples[c] = sample) ∧
        (∀ half : Fin 64, (t.au.lines.levels half).abck = decide (half.val % 2 = 1) ∧
          (t.au.lines.levels half).afck = decide (32 ≤ half.val) ∧
          (half.val / 32 = c.val % 2 →
            (if c < 2 then (t.au.lines.levels half).ad0 else (t.au.lines.levels half).ad1) =
              sample.getLsbD (15 - half.val / 2 % 16))) ∧
        (s.au.lines ≠ .heldLow → t.au.lines.beginsWithFallingEdge = (s.au.lines.levels 63).afck) ∧
        t.au.monitors[c] =
          if m.window = 0 ∨ isMuted s c = true then m
          else if m.counted + 1 = m.window then
            { m with counted := 0, peak := 0, count := 0, storedPeak := peak, storedCount := count }
          else { m with counted := m.counted + 1, peak := peak, count := count }) ∧
  (∀ (s : State) (c : Fin 4), s.inReset = false → s.au.monitors[c].window ≠ 0 →
    s.au.monitors[c].window ≤ s.au.monitors[c].counted →
    Completes (.windowEnd c) s fun t =>
      t.au.monitors[c] = { s.au.monitors[c] with
        counted := 0, peak := 0, count := 0
        storedPeak := s.au.monitors[c].peak, storedCount := s.au.monitors[c].count } ∧
      t.lu.latestPeak[c] = s.au.monitors[c].peak ∧
      (∀ g : Fin 64, t.lu.groups[g] =
        if s.lu.groups[g].follow = some c then { s.lu.groups[g] with scale := s.au.monitors[c].peak }
        else s.lu.groups[g]) ∧
      t.sq = s.sq ∧ t.wu = s.wu ∧ t.gu = s.gu ∧ t.ls = s.ls ∧ GroundKept s t ∧ FetchKept s t ∧ ReportKept s t) ∧
  ∀ (s : State) (c : Fin 4), s.inReset = false → MonitorsSound s → Completes (.windowEnd c) s (NothingDone s)

/-! ## Field and colour periods -/

/-- At a field period every pump's output moves toward the lower of its commanded speed and its effective cap, up by no more
than its up rate and down by no more than its trip rate in fault wind-down and its down rate at every other time. The cap is
the lowest of max speed, wind cap, the levels of the matched DERATE entries, and idle speed while the wanted open count is
below min-open. The frame sent carries the count, the applied image and the outputs, and the count rises by one. Its 488 bits
are, each field most significant bit first, the sync word 0xF52A, the count, the six banks, the sixteen speeds and the CRC-16 of
the bits between the two. They go out one for each FLCK period, FLCK low and then high (log
entry 16), and after them both lines rest high. -/
def Obligations.FieldPeriodRampsPumps : Prop :=
  (∀ s : State, s.inReset = false → Completes .fieldPeriod s fun t =>
    (∀ p : Fin 16,
      let limits := [s.ls.table.maxSpeed p, s.ls.table.windCap (s.ls.table.pumpClass p) s.gu.band,
        (if headerCount s.ls.table p s.wu.wanted < s.ls.table.minOpen p then s.ls.table.idleSpeed p else 1000)] ++
        ((List.range 8).filter (fun e => s.gu.matched.getLsbD e && decide (s.ls.table.entryAction e = 1))).map
          s.ls.table.derateLevel
      let cap := limits.foldl min 1000
      let target := min s.wu.commanded[p] cap
      let falling := if s.sq.state = .winddown ∧ s.sq.kind = .fault then s.ls.table.tripRate p else s.ls.table.downRate p
      t.wu.output[p] =
        if s.wu.output[p] < target then min target (s.wu.output[p] + s.ls.table.upRate p)
        else if target < s.wu.output[p] then max target (s.wu.output[p] - falling)
        else s.wu.output[p]) ∧
    t.wu.commanded = s.wu.commanded ∧ t.wu.wanted = s.wu.wanted ∧
    t.wu.link = .frame (FieldFrame.compose s.wu.frameCount t.wu.applied t.wu.output) ∧
    t.wu.frameCount = s.wu.frameCount + 1 ∧
    (s.sq.state ≠ .winddown → ShowKept s t ∧ FetchKept s t ∧ PathKept s t) ∧
    t.lu = s.lu ∧ t.gu = s.gu ∧ t.ls = s.ls ∧ GroundKept s t ∧ ReportKept s t) ∧
  (∀ f : FieldFrame,
    (∀ (n : Nat) (bit : Bool), f.bits[n]? = some bit →
      (FieldLink.frame f).levels (2 * n) = (false, bit) ∧ (FieldLink.frame f).levels (2 * n + 1) = (true, bit)) ∧
    ∀ half : Nat, 976 ≤ half → (FieldLink.frame f).levels half = (true, true)) ∧
  ∀ (count : Byte) (applied : BitVec 192) (output : Vector Nat 16),
    let body := msbFirst 8 count.toNat ++
      (List.range 6).flatMap (fun b => (List.range 32).map (fun k => applied.getLsbD (32 * b + (31 - k)))) ++
      output.toList.flatMap (msbFirst 16)
    (FieldFrame.compose count applied output).bits = msbFirst 16 0xF52A ++ body ++ msbFirst 16 (crc16Bits body).toNat

/-- After the ramps of a field period every deferred valve with no blocking pump is applied closed and leaves the set, and
every other stays. The outputs change at field periods, at the assertion and at the release of reset, and at no other command;
and so do the deferred closes: every other command leaves a deferred valve deferred, applied open and wanted closed, unless it is
a frame period whose advance reaches an open of that valve, which R96 governs. The row DEFERRED_CLOSE_APPLY is the field period
in which the deferred close of the valve it names goes through, and does nothing where a field period would not close it;
WINDDOWN_COMPLETION too may be a field period (the model's choice, log entry 5). -/
def Obligations.DeferredClosesApplied : Prop :=
  (∀ s : State, s.inReset = false → Completes .fieldPeriod s fun t =>
    ∀ v : Fin 192,
      let blocked := ∃ p : Fin 16, s.ls.table.idleSpeed p < t.wu.output[p] ∧ s.ls.table.onHeader p v = true ∧
        headerCount s.ls.table p s.wu.wanted < s.ls.table.minOpen p
      (t.wu.deferred.getLsbD v = true ↔ (s.wu.deferred.getLsbD v = true ∧ blocked)) ∧
      (t.wu.applied.getLsbD v = true ↔
        (s.wu.applied.getLsbD v = true ∧ (s.wu.deferred.getLsbD v = false ∨ blocked)))) ∧
  (∀ (s : State) (v : Fin 192), s.inReset = false → Completes .fieldPeriod s fun t =>
    (s.wu.deferred.getLsbD v = true → t.wu.deferred.getLsbD v = false → exec (.deferredCloseApply v) s = .next t) ∧
    ((s.wu.deferred.getLsbD v = false ∨ t.wu.deferred.getLsbD v = true) →
      Completes (.deferredCloseApply v) s (NothingDone s))) ∧
  ∀ (c : Instr) (s t : State), exec c s = .next t → c ≠ .fieldPeriod → (∀ v, c ≠ .deferredCloseApply v) →
    c ≠ .winddownCompletion → c ≠ .resetAssert → (∀ straps senses, c ≠ .resetRelease straps senses) →
    t.wu.output = s.wu.output ∧
    ∀ v : Fin 192, s.wu.deferred.getLsbD v = true → s.wu.applied.getLsbD v = true → s.wu.wanted.getLsbD v = false →
      ((c = .framePeriod ∨ c = .starvedResume) →
        ∀ e ∈ s.sq.table, e.due.toNat ≤ s.sq.position.toNat + 1 → e.action ≠ .valve v true) →
      t.wu.deferred.getLsbD v = true ∧ t.wu.applied.getLsbD v = true ∧ t.wu.wanted.getLsbD v = false

/-- At a colour period every component moves toward its target by the distance over the periods remaining, rounded away from
its current value, and the periods fall by one; with none remaining the current colour takes the target. The colour frame
carries, for each group, 0 where it is submerged under a matched DARK entry, otherwise floor(current × scale / 32,767) where it
follows a channel, otherwise the current colour. A fade of n periods ends, with the current colour equal to the target, at the
n-th colour period after it was set, and no sooner. The frame's 2,088 bits are, each field most significant bit first, the sync
word 0xC3A6, the count, red, green, blue and white of every group in order, and the CRC-16 of the bits between the two. CLD+
changes at the start of every cell and again at the middle of the cell of a 1, from the level it stood at before the frame,
high at rest and low if held in reset, and rests high after the frame; CLD- is always its reverse. That the first frame after
reset begins from the level held in reset is the model's reading (log entry 16). That the sequencer notes a colour period
outside WINDDOWN too is the model's reading (log entry 17); WinddownCompletes has the sequencer in WINDDOWN. -/
def Obligations.ColourPeriodStepsFades : Prop :=
  (∀ s : State, s.inReset = false → Completes .colourPeriod s fun t =>
    (∀ g : Fin 64,
      let before := s.lu.groups[g]
      let moved := fun (c target : Byte) =>
        if before.fade = 0 then target.toNat
        else if c.toNat < target.toNat then
          c.toNat + (target.toNat - c.toNat + before.fade.toNat - 1) / before.fade.toNat
        else c.toNat - (c.toNat - target.toNat + before.fade.toNat - 1) / before.fade.toNat
      let after := t.lu.groups[g]
      after.current.red.toNat = moved before.current.red before.target.red ∧
      after.current.green.toNat = moved before.current.green before.target.green ∧
      after.current.blue.toNat = moved before.current.blue before.target.blue ∧
      after.current.white.toNat = moved before.current.white before.target.white ∧
      after.fade = (if before.fade = 0 then 0 else before.fade - 1) ∧
      after = { before with current := after.current, fade := after.fade }) ∧
    (∃ outputs : Vector Colour 64,
      t.lu.link = .frame (ColourFrame.compose s.lu.frameCount outputs)
        (match s.lu.link with | .heldReverse => false | .frame _ _ => true) ∧
      ∀ g : Fin 64,
        let r := t.lu.groups[g]
        let shown := fun (c : Byte) =>
          if (s.ls.table.submerged g && anyMatched s .dark) = true then 0
          else match r.follow with
            | some _ => min 255 (c.toNat * r.scale.toNat / 32767)
            | none => c.toNat
        outputs[g].red.toNat = shown r.current.red ∧ outputs[g].green.toNat = shown r.current.green ∧
        outputs[g].blue.toNat = shown r.current.blue ∧ outputs[g].white.toNat = shown r.current.white) ∧
    t.lu.frameCount = s.lu.frameCount + 1 ∧ t.lu.latestPeak = s.lu.latestPeak ∧
    (s.sq.state ≠ .winddown →
      t.sq = { s.sq with colourTaken := true } ∧ t.au = s.au ∧ FetchKept s t ∧ PathKept s t) ∧
    t.wu = s.wu ∧ t.gu = s.gu ∧ t.ls = s.ls ∧ GroundKept s t ∧ ReportKept s t) ∧
  (∀ g : LightGroup,
    (∀ k < g.fade.toNat, (LightGroup.fadeStep^[k] g).fade.toNat = g.fade.toNat - k) ∧
    (LightGroup.fadeStep^[max 1 g.fade.toNat] g).fade = 0 ∧
    (LightGroup.fadeStep^[max 1 g.fade.toNat] g).current = g.target) ∧
  (∀ (f : ColourFrame) (before : Bool),
    let plus := fun (half : Nat) => ((ColourLink.frame f before).levels half).1
    (∀ half : Nat, ((ColourLink.frame f before).levels half).2 = !plus half) ∧
    (∀ (n : Nat) (bit : Bool), f.bits[n]? = some bit →
      plus (2 * n) = !(if n = 0 then before else plus (2 * n - 1)) ∧ plus (2 * n + 1) = (plus (2 * n) != bit)) ∧
    ∀ half : Nat, 4176 ≤ half → plus half = true) ∧
  ∀ (count : Byte) (outputs : Vector Colour 64),
    let slots := outputs.toList.flatMap (fun c => [c.red, c.green, c.blue, c.white])
    let body := msbFirst 8 count.toNat ++ slots.flatMap (fun b => msbFirst 8 b.toNat)
    (ColourFrame.compose count outputs).bits = msbFirst 16 0xC3A6 ++ body ++ msbFirst 16 (crc16Bits body).toNat

/-- Wind-down completes when every output speed is 0, every valve is applied closed, every group has finished its fade and a
colour period has been taken since entry: FIFO and cue buffer are emptied, a burst in flight is void, the clock stops, the
audio lines go low, and the show is IDLE after a normal wind-down and TRIPPED after a fault wind-down. The marks, indices,
position and fault record stand. It is tested at the end of each field period, after its ramps and deferred closes, and at the
end of each colour period, which counts as taken, after its fade step; with a condition unmet the show goes on winding down.
WINDDOWN_COMPLETION by its own row is the field period at whose end the wind-down completes, or, where a field period would not
complete it, the colour period that does, and changes nothing where neither would (the model's choice, log entry 5). -/
def Obligations.WinddownCompletes : Prop :=
  ∀ s : State, s.inReset = false →
    let others := fun (t : State) => t.gu = s.gu ∧ t.ls = s.ls ∧ GroundKept s t ∧ ReportKept s t
    let goesOn := fun (x : Sequencer) (t : State) => t.sq = x ∧ t.au = s.au ∧ FetchKept s t ∧ PathKept s t
    let noted : Sequencer := { s.sq with colourTaken := true }
    (s.sq.state = .winddown → Completes .fieldPeriod s fun t =>
      (WaterDone t.wu ∧ FadesDone s.lu ∧ s.sq.colourTaken = true → WinddownEnded s.sq s t) ∧
      (¬(WaterDone t.wu ∧ FadesDone s.lu ∧ s.sq.colourTaken = true) → goesOn s.sq t) ∧
      t.lu = s.lu ∧ others t) ∧
    (s.sq.state = .winddown → Completes .colourPeriod s fun t =>
      (WaterDone s.wu ∧ FadesDone t.lu → WinddownEnded noted s t) ∧
      (¬(WaterDone s.wu ∧ FadesDone t.lu) → goesOn noted t) ∧
      t.wu = s.wu ∧ others t) ∧
    (s.sq.state = .winddown → WaterDone s.wu → (∀ p : Fin 16, s.wu.commanded[p] = 0) → FadesDone s.lu →
      s.sq.colourTaken = true → Completes .winddownCompletion s fun t =>
        WinddownEnded s.sq s t ∧ t.wu.output = s.wu.output ∧ t.lu = s.lu ∧ others t) ∧
    (s.sq.state = .winddown → WaterDone s.wu → (∀ g : Fin 64, s.lu.groups[g].fade.toNat ≤ 1) →
      s.sq.colourTaken = false → Completes .winddownCompletion s fun t =>
        WinddownEnded noted s t ∧ t.wu = s.wu ∧ others t) ∧
    (Completes .fieldPeriod s fun t => Completes .colourPeriod s fun u =>
      (s.sq.state = .winddown → t.sq.state ≠ .winddown → exec .winddownCompletion s = .next t) ∧
      (s.sq.state = .winddown → t.sq.state = .winddown → u.sq.state ≠ .winddown →
        exec .winddownCompletion s = .next u) ∧
      ((s.sq.state ≠ .winddown ∨ (t.sq.state = .winddown ∧ u.sq.state = .winddown)) →
        Completes .winddownCompletion s (NothingDone s)))

/-! ## The guard unit -/

/-- A change of a sense input's raw level starts or restarts its debounce timer, with the debounce time as it stands, when the
new level differs from the debounced level, and stops it when it is equal; nothing else changes. The debounce time is the
table's, and 255 ms while the table is not VALID. -/
def Obligations.SenseLevelStartsTimer : Prop :=
  ∀ (s : State) (i : Fin 16) (high : Bool), s.inReset = false → s.gu.raw.getLsbD i ≠ high →
    Completes (.senseLevelChange i high) s fun t =>
      (∀ j : Fin 16, t.gu.raw.getLsbD j = if j = i then high else s.gu.raw.getLsbD j) ∧
      (∀ j : Fin 16, t.gu.timers[j] =
        if j = i then
          if high = s.gu.debounced.getLsbD i then none
          else some (if s.ls.tableState = .valid then s.ls.table.debounceMs else 255)
        else s.gu.timers[j]) ∧
      t.gu = { s.gu with raw := t.gu.raw, timers := t.gu.timers } ∧
      ShowKept s t ∧ t.wu = s.wu ∧ t.lu = s.lu ∧ t.ls = s.ls ∧ GroundKept s t ∧ FetchKept s t ∧ PathKept s t ∧ ReportKept s t

/-- When a running debounce timer runs out on a changed level, the debounced level takes the raw level and the eight entries
are evaluated for that edge: a latching entry once matched stays matched, any other is matched exactly while its pattern
holds, and a latching entry newly matched joins the latched set. INTERLOCK is raised when an entry became matched. The lowest
TRIP entry that became matched takes an IDLE show to TRIPPED, a live one to fault wind-down, and a normal wind-down to the
fault kind with every fade cut short; it fills the fault record, FAULT is raised, and each further one is counted as secondary.
In fault wind-down and TRIPPED each is counted. Without one, a HOLD entry that became matched holds a RUNNING, STARVED or HELD
show for INTERLOCK, and a HELD show left with no HOLD entry matched loses INTERLOCK and runs if HOST does not hold it. The
starve count a hold leaves is 0 by the model's reading of 'drop' (log entry 11). A spec of code 1 or 2 holds while its input's
debounced level is low or high, and one of code 3, 4 or 5 in the evaluation for a rising, a falling or any edge on its input; code
0 takes no part. In ALL mode (0) the pattern holds when every spec that takes part holds, in ANY mode (1) when one does, and never
when all are ignore. An entry is latching by its latch flag or by an edge spec. -/
def Obligations.DebounceExpiryEvaluates : Prop :=
  (∀ (s : State) (i : Fin 16), s.inReset = false → s.gu.timers[i] ≠ none →
    s.gu.raw.getLsbD i ≠ s.gu.debounced.getLsbD i →
    Completes (.debounceTimerExpiry i) s fun t =>
      let levels := t.gu.debounced
      let holds := fun (e : Nat) =>
        decide (s.ls.tableState = .valid) && s.ls.table.patternHolds e levels (some (i, s.gu.raw.getLsbD i))
      let newly := fun (e : Nat) => holds e && !s.gu.matched.getLsbD e
      let trip := fun (e : Nat) => newly e && decide (s.ls.table.entryAction e = 3)
      let trips := (List.range 8).countP trip
      let held := (List.range 8).any (fun e => newly e && decide (s.ls.table.entryAction e = 0))
      (∀ j : Fin 16, levels.getLsbD j = if j = i then s.gu.raw.getLsbD i else s.gu.debounced.getLsbD j) ∧
      (∀ j : Fin 16, t.gu.timers[j] = if j = i then none else s.gu.timers[j]) ∧
      (∀ e : Fin 8,
        t.gu.matched.getLsbD e = (holds e || (s.gu.matched.getLsbD e && s.ls.table.latching e)) ∧
        t.gu.latched.getLsbD e = (s.gu.latched.getLsbD e || (newly e && s.ls.table.latching e))) ∧
      t.gu.raw = s.gu.raw ∧ t.gu.gate = s.gu.gate ∧ t.gu.pulses = s.gu.pulses ∧ t.gu.band = s.gu.band ∧
      (∀ e : Fin 8, newly e = true → t.ru.pending.getLsbD 1 = true) ∧
      ((∀ e : Fin 8, newly e = false) → t.ru.pending = s.ru.pending) ∧
      (∀ e : Fin 8, trip e = true → (∀ d : Fin 8, d < e → trip d = false) →
        let record : FaultRecord :=
          { first := some (.interlockTrip e), position := s.sq.position, secondary := BitVec.ofNat 8 (trips - 1) }
        (s.sq.state = .idle →
          t.sq = { s.sq with state := .tripped, faultRecord := record } ∧ t.ru.pending.getLsbD 0 = true ∧
          t.wu = s.wu ∧ t.lu = s.lu) ∧
        (s.sq.state.live = true →
          t.sq = { s.sq with
            state := .winddown, kind := .fault, faultRecord := record, holdHost := false, holdInterlock := false
            holdPending := .clear, starveCount := 0, table := [], runDivided := false
            colourTaken := false, discardedCount := saturate16 s.sq.discardedCount s.sq.table.length } ∧
          t.ru.pending.getLsbD 0 = true ∧ t.wu.wanted = 0 ∧ (∀ p : Fin 16, t.wu.commanded[p] = 0) ∧
          t.wu.output = s.wu.output) ∧
        (s.sq.state = .winddown → s.sq.kind = .normal →
          t.sq = { s.sq with kind := .fault, faultRecord := record } ∧ t.ru.pending.getLsbD 0 = true ∧ t.wu = s.wu ∧
          ∀ g : Fin 64, t.lu.groups[g] = { s.lu.groups[g] with fade := 0 })) ∧
      ((s.sq.state = .tripped ∨ (s.sq.state = .winddown ∧ s.sq.kind = .fault)) →
        t.sq = { s.sq with faultRecord := { s.sq.faultRecord with secondary := t.sq.faultRecord.secondary } } ∧
        t.sq.faultRecord.secondary.toNat = min 255 (s.sq.faultRecord.secondary.toNat + trips) ∧
        t.wu = s.wu ∧ t.lu = s.lu) ∧
      (trips = 0 →
        t.sq =
          (if held = true ∧ (s.sq.state = .running ∨ s.sq.state = .starved ∨ s.sq.state = .held) then
            { s.sq with
              state := .held, holdInterlock := true
              starveCount := if s.sq.state = .starved then 0 else s.sq.starveCount }
          else if s.sq.state = .held ∧ anyMatched s .hold = true ∧ anyMatched t .hold = false then
            { s.sq with holdInterlock := false, state := if s.sq.holdHost then .held else .running }
          else s.sq) ∧
        t.wu = s.wu ∧ t.lu = s.lu) ∧
      t.ls = s.ls ∧ t.au = s.au ∧ GroundKept s t ∧ FetchKept s t ∧ PathKept s t) ∧
  (∀ (s : State) (edge : Option (Fin 16 × Bool)) (e : Nat),
    entryHolds s edge e = (decide (s.ls.tableState = .valid) && s.ls.table.patternHolds e s.gu.debounced edge)) ∧
  ∀ (x : LimitTable) (e : Fin 8) (levels : Half) (edge : Option (Fin 16 × Bool)),
    let field := fun (k : Nat) => (x.byte (1344 + 16 * e.val + k)).toNat
    let code := fun (i : Fin 16) => if i.val % 2 = 0 then field (i.val / 2) % 16 else field (i.val / 2) / 16
    let holds := fun (i : Fin 16) =>
      (code i = 1 ∧ levels.getLsbD i = false) ∨ (code i = 2 ∧ levels.getLsbD i = true) ∨
      ((code i = 3 ∨ code i = 5) ∧ edge = some (i, true)) ∨ ((code i = 4 ∨ code i = 5) ∧ edge = some (i, false))
    (field 8 = 0 → (x.patternHolds e levels edge = true ↔
      ((∃ i, code i ≠ 0) ∧ ∀ i, code i ≠ 0 → holds i))) ∧
    (field 8 = 1 → (x.patternHolds e levels edge = true ↔ ∃ i, holds i)) ∧
    (x.latching e = true ↔ (field 12 % 2 = 1 ∨ ∃ i, code i = 3 ∨ code i = 4 ∨ code i = 5))

/-- A rising edge on WIND_IN adds one to the wind pulse count, up to 65,535. A gate expiry records the count, sets the count to
0, starts the next gate and sets the band: to the highest b above the present band whose up threshold the count reaches; else
one lower when the count is below the present band's down threshold; else unchanged; and to 3 while the table is not VALID.
WIND is raised exactly when the band changes. -/
def Obligations.WindGateSetsBand : Prop :=
  (∀ s : State, s.inReset = false → Completes .windInRising s fun t =>
    t.gu.pulses.toNat = min 65535 (s.gu.pulses.toNat + 1) ∧ t.gu = { s.gu with pulses := t.gu.pulses } ∧
    ShowKept s t ∧ t.wu = s.wu ∧ t.lu = s.lu ∧ t.ls = s.ls ∧ GroundKept s t ∧ FetchKept s t ∧ PathKept s t ∧ ReportKept s t) ∧
  ∀ s : State, s.inReset = false → s.gu.gate ≠ none → Completes .windGateExpiry s fun t =>
    let count := s.gu.pulses.toNat
    let reached := fun (b : Fin 4) => s.gu.band < b ∧ s.ls.table.windUp b ≤ count
    t.gu = { s.gu with
      lastWind := s.gu.pulses, pulses := 0, band := t.gu.band
      gate := some (if s.ls.tableState = .valid then s.ls.table.gateLength else 10) } ∧
    (s.ls.tableState ≠ .valid → t.gu.band = 3) ∧
    (s.ls.tableState = .valid →
      (∀ b, reached b → (∀ c, reached c → c ≤ b) → t.gu.band = b) ∧
      ((∀ b, ¬reached b) → t.gu.band.val =
        if 0 < s.gu.band.val ∧ count < s.ls.table.windDown s.gu.band then s.gu.band.val - 1 else s.gu.band.val)) ∧
    (if t.gu.band = s.gu.band then ReportKept s t else ReportRaised .wind s t) ∧
    ShowKept s t ∧ t.wu = s.wu ∧ t.lu = s.lu ∧ t.ls = s.ls ∧ GroundKept s t ∧ FetchKept s t ∧ PathKept s t

/-! ## Reset -/

/-- The assertion of RESET_N sets every block to its reset values, keeps the limit table and lock cell but for an operation cut
short (its row, or the whole table and the lock, or the lock, left erased), ends a fetch read and keeps memory and the
processor's transactions. The audio lines, FLCK and FLD are low, CLD+ low and CLD- high. The sense levels and the window base
stand until they are sampled at release (log entry 4). -/
def Obligations.ResetAssertSetsResetValues : Prop :=
  ∀ s : State, Completes .resetAssert s fun t =>
    t.inReset = true ∧
    t.sq.state = .idle ∧ t.sq.kind = .normal ∧ t.sq.position = 0 ∧ t.sq.holdHost = false ∧ t.sq.holdInterlock = false ∧
    t.sq.holdPending = .clear ∧ t.sq.sync = .immediate ∧ t.sq.rate = .r32000 ∧ t.sq.starveLimit = 0 ∧
    t.sq.starveCount = 0 ∧ t.sq.faultRecord = { first := none, position := 0, secondary := 0 } ∧ t.sq.lastMark = none ∧
    t.sq.table = [] ∧ t.sq.lateCount = 0 ∧ t.sq.discardedCount = 0 ∧ t.sq.headAccepted = false ∧ t.sq.runDivided = false ∧
    t.sq.foundSequence = 0 ∧ t.sq.cueErrorCount = 0 ∧ t.sq.lastReleased = none ∧
    (∀ v : Fin 192, t.sq.valveLeads[v] = 0) ∧ (∀ p : Fin 16, t.sq.pumpLeads[p] = 0) ∧
    (∀ g : Fin 64, t.sq.lightLags[g] = 0) ∧
    t.fu = { cueMark := 0, cueFetch := 0, audioMark := 0, final := false, audioFetch := 0, markFault := false
             cueBuffer := [], cueBlocked := false, expectedSequence := 0, cueTrigger := 2048, audioTrigger := 57344
             fetchRequest := false } ∧
    t.au.clock = none ∧ t.au.fifo = [] ∧ t.au.muteSet = 0 ∧ t.au.underflowCount = 0 ∧ t.au.lines = .heldLow ∧
    (∀ half : Fin 64, t.au.lines.levels half = { abck := false, afck := false, ad0 := false, ad1 := false }) ∧
    (∀ half : Nat, t.wu.link.levels half = (false, false) ∧ t.lu.link.levels half = (false, true)) ∧
    (∀ c : Fin 4, t.au.monitors[c] = Monitor.off) ∧
    t.wu.wanted = 0 ∧ t.wu.applied = 0 ∧ t.wu.deferred = 0 ∧ t.wu.frameCount = 0 ∧ t.wu.link = .heldLow ∧
    (∀ p : Fin 16, t.wu.commanded[p] = 0 ∧ t.wu.output[p] = 0) ∧
    (∀ g : Fin 64, t.lu.groups[g] = LightGroup.dark) ∧ (∀ c : Fin 4, t.lu.latestPeak[c] = 0) ∧
    t.lu.frameCount = 0 ∧ t.lu.link = .heldReverse ∧
    t.gu.matched = 0 ∧ t.gu.latched = 0 ∧ t.gu.gate = none ∧ t.gu.pulses = 0 ∧ t.gu.lastWind = 0 ∧ t.gu.band = 3 ∧
    (∀ i : Fin 16, t.gu.timers[i] = none) ∧ t.gu.raw = s.gu.raw ∧ t.gu.debounced = s.gu.debounced ∧
    t.ls.operation = none ∧ t.ls.marks = 0 ∧ t.ls.lastCommand = none ∧ t.ls.outcome = .none ∧ t.ls.lastCompletion = none ∧
    (∀ i : Fin 16, t.ls.staging[i] = 0) ∧
    (∀ n : Nat, n < 2048 → t.ls.table.byte n =
      match s.ls.operation.map Operation.name with
      | some (.programRow r) => if n / 64 = r.val then 0xFF else s.ls.table.byte n
      | some .eraseAll => 0xFF
      | some .setLock | none => s.ls.table.byte n) ∧
    t.ls.locked =
      (match s.ls.operation.map Operation.name with
      | some .setLock | some .eraseAll => false
      | some (.programRow _) | none => s.ls.locked) ∧
    t.pu.refusedCount = 0 ∧ t.pu.lastRefused = 0 ∧ t.pu.waitCount = 0 ∧ t.pu.base = s.pu.base ∧
    t.pu.waiting = s.pu.waiting ∧ t.pu.assembling = s.pu.assembling ∧ t.pu.carried = false ∧
    t.pu.port = (match s.pu.port with | .processor x => .processor x | .free | .fetch _ => .free) ∧
    t.ru = { arg0 := 0, arg1 := 0, arg2 := 0, code := 0, outcome := .none, pending := 0, enable := 0, attention := false } ∧
    MemoryKept s t

/-- The release of RESET_N samples the straps as the window base and the sense levels, with no edge; recomputes the table
state; evaluates the entries by levels, a matched TRIP entry taking the show to TRIPPED with the lowest such entry recorded;
starts the wind gate with the band at 3; and sends the first field and colour frames, of count 0, with every valve closed,
every speed 0 and every lamp dark. INTERLOCK is pending after it exactly when an entry matched, FAULT exactly when a TRIP entry
did, and no other cause. A burst whose words are still coming goes on undecided. The order of these actions is the
model's reading (log entry 14), and so is the level of CLD+ that the first colour frame begins from (log entry 16). -/
def Obligations.ResetReleaseStartsThePart : Prop :=
  ∀ (s : State) (straps : BitVec 6) (senses : Half), s.inReset = true → ResetSound s →
    Completes (.resetRelease straps senses) s fun t =>
      let holds := fun (e : Nat) => decide (s.ls.table.state = .valid) && s.ls.table.patternHolds e senses none
      t.inReset = false ∧ t.pu.base = straps ∧ (t.pu.carried = true ↔ s.pu.assembling ≠ []) ∧ t.gu.raw = senses ∧ t.gu.debounced = senses ∧
      (∀ i : Fin 16, t.gu.timers[i] = none) ∧ t.gu.band = 3 ∧ t.gu.pulses = 0 ∧
      t.ls = { s.ls with tableState := s.ls.table.state } ∧
      t.gu.gate = some (if s.ls.table.state = .valid then s.ls.table.gateLength else 10) ∧
      (∀ e : Fin 8, t.gu.matched.getLsbD e = holds e ∧
        t.gu.latched.getLsbD e = (holds e && s.ls.table.latching e)) ∧
      ((∀ e : Fin 8, holds e = true → s.ls.table.entryAction e ≠ 3) → t.sq.state = .idle) ∧
      (∀ e : Fin 8, holds e = true → s.ls.table.entryAction e = 3 →
        (∀ d : Fin 8, d < e → holds d = true → s.ls.table.entryAction d ≠ 3) →
        t.sq.state = .tripped ∧ t.sq.faultRecord.first = some (.interlockTrip e)) ∧
      t.wu = { s.wu with
        frameCount := 1, link := .frame (FieldFrame.compose 0 0 (Vector.replicate 16 0)) } ∧
      t.lu = { s.lu with
        frameCount := 1, link := .frame (ColourFrame.compose 0 (Vector.replicate 64 Colour.black)) false } ∧
      (∀ k : Fin 9, t.ru.pending.getLsbD k = true ↔
        ((k = 1 ∧ ∃ e : Fin 8, holds e = true) ∨
          (k = 0 ∧ ∃ e : Fin 8, holds e = true ∧ s.ls.table.entryAction e = 3))) ∧
      t.ru = { s.ru with pending := t.ru.pending, attention := false } ∧ t.ru.enable = 0 ∧
      t.fu = s.fu ∧ t.au = s.au ∧ MemoryKept s t

/-! ## Invariants -/

/-- In IDLE and TRIPPED every pump output speed is zero and every valve in the applied image is closed; and with it, of every
state a step reaches: the images differ by the deferred valves alone, no output exceeds its max speed, and a pump above idle
has its min-open count of header valves applied open. While RESET_N is asserted the blocks stand at their reset values, which
is an invariant of its own (BlocksStaySound). -/
def Obligations.WaterStaysSound : Prop :=
  ∀ s t : State, WaterSound s → ResetSound s → step s = .next t → WaterSound t

/-- The show is HELD exactly while it has a hold reason, the fault record is empty outside TRIPPED and fault wind-down, the
frame clock runs exactly outside IDLE and TRIPPED, and the release table never holds more than 512 entries, keeps them in
nondecreasing order of due position, and is empty outside a live show. A run stands divided only while the advance that divides
it comes next, its next record at the head, unexamined (log entry 20). -/
def Obligations.ShowStaysSound : Prop :=
  ∀ s t : State, step s = .next t →
    (HoldsSound s → HoldsSound t) ∧ (RecordSound s → RecordSound t) ∧ (ClockSound s → ClockSound t) ∧
    (TableSound s → TableSound t) ∧ (TableEmptySound s → TableEmptySound t) ∧
    (ResetSound s → RunSound s → RunSound t)

/-- The FIFO never exceeds 1,024 frames nor the cue buffer 4 records, a burst on the port reads published slots with room for
its data, and in IDLE and TRIPPED FIFO and buffer are empty and a leftover burst is void. It rests on the arbiter's rule, an
invariant of its own (BlocksStaySound; the arbiter's record of a grant that is due is the model's, log entry 19). -/
def Obligations.QueuesStaySound : Prop :=
  ∀ s t : State, QueuesSound s → ArbiterSound s → step s = .next t → QueuesSound t

/-- A monitor's frames counted stay below its window, a muted channel's results stay 0, and the light unit's latest peak of a
channel always equals the stored peak of its monitor, every follower carrying it as its scale. The latched entries are the
matched entries that are latching, and an entry that is not latching is matched exactly while its pattern holds. ATTN_N is
asserted exactly while the pending set and the enable set have a cause in common; the fetch request stands exactly while a
burst is possible in a state that fetches. The arbiter is busy exactly while the port is granted, and holds a grant due only to
those waiting (its record of a grant that is due is the model's choice, log entry 19); with that rule, the wait count is 0
while the fetch request does not stand, and while RESET_N is asserted the blocks stand at their reset values. The external
memory keeps its canonical form, and the table state out of reset is the one worked out from the table. -/
def Obligations.BlocksStaySound : Prop :=
  ∀ s t : State, step s = .next t →
    (MonitorsSound s → MonitorsSound t) ∧ (PeaksSound s → PeaksSound t) ∧
    (LatchesSound s → LatchesSound t) ∧ (MatchesSound s → MatchesSound t) ∧
    (AttentionSound s → AttentionSound t) ∧ (RequestSound s → RequestSound t) ∧
    (ArbiterSound s → ArbiterSound t ∧ (WaitSound s → WaitSound t) ∧ (ResetSound s → ResetSound t)) ∧
    (MemorySound s → MemorySound t) ∧ (TableStateSound s → TableStateSound t)

/-- Every invariant holds at State.reset, which is the part with RESET_N asserted (log entry 1). -/
def Obligations.InvariantsHoldAtReset : Prop :=
  WaterSound State.reset ∧ HoldsSound State.reset ∧ RecordSound State.reset ∧ ClockSound State.reset ∧
  TableSound State.reset ∧ TableEmptySound State.reset ∧ RunSound State.reset ∧ QueuesSound State.reset ∧ MonitorsSound State.reset ∧
  PeaksSound State.reset ∧ LatchesSound State.reset ∧ MatchesSound State.reset ∧ MemorySound State.reset ∧
  AttentionSound State.reset ∧ RequestSound State.reset ∧ ArbiterSound State.reset ∧ WaitSound State.reset ∧ TableStateSound State.reset ∧
  ResetSound State.reset ∧ WaitingSound State.reset
end

