-- ==== Sys2Proof/Laws/Codes.lean ====
section
/-! SUPPORT. The check codes of R189: the byte-wise forms of the model agree with the bit-wise forms of the statements. -/

namespace Sys2Proof.Machine

/-! ## One bit -/

/-- Bits put into a register's top are taken as they pass it, and the rest move up. -/
theorem crcTake_xor {w : Nat} (p c d : BitVec w) :
    crcTake p (c ^^^ d) false = crcTake p c d.msb ^^^ (d <<< 1) := by
  unfold crcTake
  rw [BitVec.shiftLeft_xor_distrib, BitVec.msb_xor]
  cases c.msb <;> cases d.msb <;> simp <;> ac_rfl

theorem crcTake_false {w : Nat} (p c : BitVec w) :
    crcTake p c false = if c.msb then (c <<< 1) ^^^ p else c <<< 1 := by
  unfold crcTake; cases c.msb <;> simp

theorem crc16Bit_eq (c : Half) : crc16Bit c = crcTake 0x1021 c false := by
  rw [crcTake_false]; rfl

theorem reverse_xor {w : Nat} (x y : BitVec w) : (x ^^^ y).reverse = x.reverse ^^^ y.reverse := by
  ext i h; simp [BitVec.getElem_reverse, BitVec.getMsbD_xor]

theorem reverse_shiftLeft_one {w : Nat} (x : BitVec w) : (x <<< 1).reverse = x.reverse >>> 1 := by
  ext i h
  simp [BitVec.getElem_reverse, BitVec.getMsbD_shiftLeft, BitVec.getLsbD_reverse, Nat.add_comm]

theorem crc32Bit_reverse (c : Word) : crc32Bit c.reverse = (crcTake 0x04C11DB7 c false).reverse := by
  have low : c.reverse.getLsbD 0 = c.msb := by rw [BitVec.getLsbD_reverse, BitVec.msb]
  have polynomial : (0x04C11DB7 : Word).reverse = 0xEDB88320 := by decide +kernel
  unfold crc32Bit
  rw [crcTake_false, low, ← reverse_shiftLeft_one, ← polynomial, ← reverse_xor]
  split <;> rfl

/-! ## Bytes -/

theorem crc16Byte_eq (c : Half) (b : Byte) : crc16Byte c b = (byteBits b).foldl (crcTake 0x1021) c := by
  have bits : byteBits b = [b.getLsbD 7, b.getLsbD 6, b.getLsbD 5, b.getLsbD 4, b.getLsbD 3, b.getLsbD 2, b.getLsbD 1,
    b.getLsbD 0] := rfl
  have gone : (b.setWidth 16 <<< 8 : Half) <<< 1 <<< 1 <<< 1 <<< 1 <<< 1 <<< 1 <<< 1 <<< 1 = 0 := by
    ext i h; simp
  unfold crc16Byte
  simp only [crc16Bit_eq, crcTake_xor, bits, List.foldl, gone]
  simp [BitVec.msb_shiftLeft, BitVec.getMsbD_eq_getLsbD]

theorem crc16_eq (bytes : List Byte) : crc16 bytes = crc16Bits (bitsOfBytes bytes) := by
  unfold crc16 crc16Bits bitsOfBytes
  generalize (0xFFFF : Half) = c
  induction bytes generalizing c with
  | nil => rfl
  | cons b rest ih => rw [List.foldl_cons, ih, crc16Byte_eq, List.flatMap_cons, List.foldl_append]

theorem crc32Byte_reverse (c : Word) (b : Byte) :
    crc32Byte c.reverse b = ((lsbFirst b).foldl (crcTake 0x04C11DB7) c).reverse := by
  have bits : lsbFirst b = [b.getLsbD 0, b.getLsbD 1, b.getLsbD 2, b.getLsbD 3, b.getLsbD 4, b.getLsbD 5, b.getLsbD 6,
    b.getLsbD 7] := rfl
  have mirrored : b.setWidth 32 = ((b.setWidth 32 : Word).reverse).reverse := by rw [BitVec.reverse_reverse_eq]
  have gone : (b.setWidth 32 : Word).reverse <<< 1 <<< 1 <<< 1 <<< 1 <<< 1 <<< 1 <<< 1 <<< 1 = 0 := by
    ext i h
    simp only [← BitVec.shiftLeft_add, BitVec.getElem_shiftLeft, BitVec.getElem_reverse, BitVec.getMsbD_setWidth]
    simp
    intros
    omega
  unfold crc32Byte
  rw [mirrored, ← reverse_xor]
  simp only [crc32Bit_reverse, crcTake_xor, bits, List.foldl, gone]
  simp [BitVec.msb_shiftLeft, BitVec.getMsbD_eq_getLsbD, BitVec.getElem_reverse, BitVec.msb_reverse]

theorem crc32_eq (bytes : List Byte) : crc32 bytes = crc32Bits (bytes.flatMap lsbFirst) := by
  have run : ∀ c : Word, bytes.foldl crc32Byte c.reverse =
      ((bytes.flatMap lsbFirst).foldl (crcTake 0x04C11DB7) c).reverse := by
    induction bytes with
    | nil => intro c; rfl
    | cons b rest ih => intro c; rw [List.foldl_cons, crc32Byte_reverse, ih, List.flatMap_cons, List.foldl_append]
  have ones : (0xFFFFFFFF : Word).reverse = 0xFFFFFFFF := by decide +kernel
  unfold crc32 crc32Bits
  rw [← run, ones]

end Sys2Proof.Machine
end

