-- ==== Sys2Proof/Laws/State.lean ====
section
/-! SUPPORT. The laws of the block setters: every field after every setter, and a setter over a setter of the same block. -/

namespace Sys2Proof.Machine

variable (s : State)

/-! ## setSq -/

@[simp] theorem inReset_setSq (x : Sequencer) : (s.setSq x).inReset = s.inReset := rfl
@[simp] theorem sq_setSq (x : Sequencer) : (s.setSq x).sq = x := rfl
@[simp] theorem fu_setSq (x : Sequencer) : (s.setSq x).fu = s.fu := rfl
@[simp] theorem au_setSq (x : Sequencer) : (s.setSq x).au = s.au := rfl
@[simp] theorem wu_setSq (x : Sequencer) : (s.setSq x).wu = s.wu := rfl
@[simp] theorem lu_setSq (x : Sequencer) : (s.setSq x).lu = s.lu := rfl
@[simp] theorem gu_setSq (x : Sequencer) : (s.setSq x).gu = s.gu := rfl
@[simp] theorem ls_setSq (x : Sequencer) : (s.setSq x).ls = s.ls := rfl
@[simp] theorem pu_setSq (x : Sequencer) : (s.setSq x).pu = s.pu := rfl
@[simp] theorem ru_setSq (x : Sequencer) : (s.setSq x).ru = s.ru := rfl
@[simp] theorem mem_setSq (x : Sequencer) : (s.setSq x).mem = s.mem := rfl
@[simp] theorem meetings_setSq (x : Sequencer) : (s.setSq x).meetings = s.meetings := rfl
@[simp] theorem pending_setSq (x : Sequencer) : (s.setSq x).pending = s.pending := rfl
@[simp] theorem setSq_setSq (x y : Sequencer) : (s.setSq x).setSq y = s.setSq y := rfl
@[simp] theorem setSq_self : s.setSq s.sq = s := rfl

/-! ## setFu -/

@[simp] theorem inReset_setFu (x : FetchUnit) : (s.setFu x).inReset = s.inReset := rfl
@[simp] theorem sq_setFu (x : FetchUnit) : (s.setFu x).sq = s.sq := rfl
@[simp] theorem fu_setFu (x : FetchUnit) : (s.setFu x).fu = x := rfl
@[simp] theorem au_setFu (x : FetchUnit) : (s.setFu x).au = s.au := rfl
@[simp] theorem wu_setFu (x : FetchUnit) : (s.setFu x).wu = s.wu := rfl
@[simp] theorem lu_setFu (x : FetchUnit) : (s.setFu x).lu = s.lu := rfl
@[simp] theorem gu_setFu (x : FetchUnit) : (s.setFu x).gu = s.gu := rfl
@[simp] theorem ls_setFu (x : FetchUnit) : (s.setFu x).ls = s.ls := rfl
@[simp] theorem pu_setFu (x : FetchUnit) : (s.setFu x).pu = s.pu := rfl
@[simp] theorem ru_setFu (x : FetchUnit) : (s.setFu x).ru = s.ru := rfl
@[simp] theorem mem_setFu (x : FetchUnit) : (s.setFu x).mem = s.mem := rfl
@[simp] theorem meetings_setFu (x : FetchUnit) : (s.setFu x).meetings = s.meetings := rfl
@[simp] theorem pending_setFu (x : FetchUnit) : (s.setFu x).pending = s.pending := rfl
@[simp] theorem setFu_setFu (x y : FetchUnit) : (s.setFu x).setFu y = s.setFu y := rfl
@[simp] theorem setFu_self : s.setFu s.fu = s := rfl

/-! ## setAu -/

@[simp] theorem inReset_setAu (x : AudioUnit) : (s.setAu x).inReset = s.inReset := rfl
@[simp] theorem sq_setAu (x : AudioUnit) : (s.setAu x).sq = s.sq := rfl
@[simp] theorem fu_setAu (x : AudioUnit) : (s.setAu x).fu = s.fu := rfl
@[simp] theorem au_setAu (x : AudioUnit) : (s.setAu x).au = x := rfl
@[simp] theorem wu_setAu (x : AudioUnit) : (s.setAu x).wu = s.wu := rfl
@[simp] theorem lu_setAu (x : AudioUnit) : (s.setAu x).lu = s.lu := rfl
@[simp] theorem gu_setAu (x : AudioUnit) : (s.setAu x).gu = s.gu := rfl
@[simp] theorem ls_setAu (x : AudioUnit) : (s.setAu x).ls = s.ls := rfl
@[simp] theorem pu_setAu (x : AudioUnit) : (s.setAu x).pu = s.pu := rfl
@[simp] theorem ru_setAu (x : AudioUnit) : (s.setAu x).ru = s.ru := rfl
@[simp] theorem mem_setAu (x : AudioUnit) : (s.setAu x).mem = s.mem := rfl
@[simp] theorem meetings_setAu (x : AudioUnit) : (s.setAu x).meetings = s.meetings := rfl
@[simp] theorem pending_setAu (x : AudioUnit) : (s.setAu x).pending = s.pending := rfl
@[simp] theorem setAu_setAu (x y : AudioUnit) : (s.setAu x).setAu y = s.setAu y := rfl
@[simp] theorem setAu_self : s.setAu s.au = s := rfl

/-! ## setWu -/

@[simp] theorem inReset_setWu (x : WaterUnit) : (s.setWu x).inReset = s.inReset := rfl
@[simp] theorem sq_setWu (x : WaterUnit) : (s.setWu x).sq = s.sq := rfl
@[simp] theorem fu_setWu (x : WaterUnit) : (s.setWu x).fu = s.fu := rfl
@[simp] theorem au_setWu (x : WaterUnit) : (s.setWu x).au = s.au := rfl
@[simp] theorem wu_setWu (x : WaterUnit) : (s.setWu x).wu = x := rfl
@[simp] theorem lu_setWu (x : WaterUnit) : (s.setWu x).lu = s.lu := rfl
@[simp] theorem gu_setWu (x : WaterUnit) : (s.setWu x).gu = s.gu := rfl
@[simp] theorem ls_setWu (x : WaterUnit) : (s.setWu x).ls = s.ls := rfl
@[simp] theorem pu_setWu (x : WaterUnit) : (s.setWu x).pu = s.pu := rfl
@[simp] theorem ru_setWu (x : WaterUnit) : (s.setWu x).ru = s.ru := rfl
@[simp] theorem mem_setWu (x : WaterUnit) : (s.setWu x).mem = s.mem := rfl
@[simp] theorem meetings_setWu (x : WaterUnit) : (s.setWu x).meetings = s.meetings := rfl
@[simp] theorem pending_setWu (x : WaterUnit) : (s.setWu x).pending = s.pending := rfl
@[simp] theorem setWu_setWu (x y : WaterUnit) : (s.setWu x).setWu y = s.setWu y := rfl
@[simp] theorem setWu_self : s.setWu s.wu = s := rfl

/-! ## setLu -/

@[simp] theorem inReset_setLu (x : LightUnit) : (s.setLu x).inReset = s.inReset := rfl
@[simp] theorem sq_setLu (x : LightUnit) : (s.setLu x).sq = s.sq := rfl
@[simp] theorem fu_setLu (x : LightUnit) : (s.setLu x).fu = s.fu := rfl
@[simp] theorem au_setLu (x : LightUnit) : (s.setLu x).au = s.au := rfl
@[simp] theorem wu_setLu (x : LightUnit) : (s.setLu x).wu = s.wu := rfl
@[simp] theorem lu_setLu (x : LightUnit) : (s.setLu x).lu = x := rfl
@[simp] theorem gu_setLu (x : LightUnit) : (s.setLu x).gu = s.gu := rfl
@[simp] theorem ls_setLu (x : LightUnit) : (s.setLu x).ls = s.ls := rfl
@[simp] theorem pu_setLu (x : LightUnit) : (s.setLu x).pu = s.pu := rfl
@[simp] theorem ru_setLu (x : LightUnit) : (s.setLu x).ru = s.ru := rfl
@[simp] theorem mem_setLu (x : LightUnit) : (s.setLu x).mem = s.mem := rfl
@[simp] theorem meetings_setLu (x : LightUnit) : (s.setLu x).meetings = s.meetings := rfl
@[simp] theorem pending_setLu (x : LightUnit) : (s.setLu x).pending = s.pending := rfl
@[simp] theorem setLu_setLu (x y : LightUnit) : (s.setLu x).setLu y = s.setLu y := rfl
@[simp] theorem setLu_self : s.setLu s.lu = s := rfl

/-! ## setGu -/

@[simp] theorem inReset_setGu (x : GuardUnit) : (s.setGu x).inReset = s.inReset := rfl
@[simp] theorem sq_setGu (x : GuardUnit) : (s.setGu x).sq = s.sq := rfl
@[simp] theorem fu_setGu (x : GuardUnit) : (s.setGu x).fu = s.fu := rfl
@[simp] theorem au_setGu (x : GuardUnit) : (s.setGu x).au = s.au := rfl
@[simp] theorem wu_setGu (x : GuardUnit) : (s.setGu x).wu = s.wu := rfl
@[simp] theorem lu_setGu (x : GuardUnit) : (s.setGu x).lu = s.lu := rfl
@[simp] theorem gu_setGu (x : GuardUnit) : (s.setGu x).gu = x := rfl
@[simp] theorem ls_setGu (x : GuardUnit) : (s.setGu x).ls = s.ls := rfl
@[simp] theorem pu_setGu (x : GuardUnit) : (s.setGu x).pu = s.pu := rfl
@[simp] theorem ru_setGu (x : GuardUnit) : (s.setGu x).ru = s.ru := rfl
@[simp] theorem mem_setGu (x : GuardUnit) : (s.setGu x).mem = s.mem := rfl
@[simp] theorem meetings_setGu (x : GuardUnit) : (s.setGu x).meetings = s.meetings := rfl
@[simp] theorem pending_setGu (x : GuardUnit) : (s.setGu x).pending = s.pending := rfl
@[simp] theorem setGu_setGu (x y : GuardUnit) : (s.setGu x).setGu y = s.setGu y := rfl
@[simp] theorem setGu_self : s.setGu s.gu = s := rfl

/-! ## setLs -/

@[simp] theorem inReset_setLs (x : LimitStore) : (s.setLs x).inReset = s.inReset := rfl
@[simp] theorem sq_setLs (x : LimitStore) : (s.setLs x).sq = s.sq := rfl
@[simp] theorem fu_setLs (x : LimitStore) : (s.setLs x).fu = s.fu := rfl
@[simp] theorem au_setLs (x : LimitStore) : (s.setLs x).au = s.au := rfl
@[simp] theorem wu_setLs (x : LimitStore) : (s.setLs x).wu = s.wu := rfl
@[simp] theorem lu_setLs (x : LimitStore) : (s.setLs x).lu = s.lu := rfl
@[simp] theorem gu_setLs (x : LimitStore) : (s.setLs x).gu = s.gu := rfl
@[simp] theorem ls_setLs (x : LimitStore) : (s.setLs x).ls = x := rfl
@[simp] theorem pu_setLs (x : LimitStore) : (s.setLs x).pu = s.pu := rfl
@[simp] theorem ru_setLs (x : LimitStore) : (s.setLs x).ru = s.ru := rfl
@[simp] theorem mem_setLs (x : LimitStore) : (s.setLs x).mem = s.mem := rfl
@[simp] theorem meetings_setLs (x : LimitStore) : (s.setLs x).meetings = s.meetings := rfl
@[simp] theorem pending_setLs (x : LimitStore) : (s.setLs x).pending = s.pending := rfl
@[simp] theorem setLs_setLs (x y : LimitStore) : (s.setLs x).setLs y = s.setLs y := rfl
@[simp] theorem setLs_self : s.setLs s.ls = s := rfl

/-! ## setPu -/

@[simp] theorem inReset_setPu (x : PathUnit) : (s.setPu x).inReset = s.inReset := rfl
@[simp] theorem sq_setPu (x : PathUnit) : (s.setPu x).sq = s.sq := rfl
@[simp] theorem fu_setPu (x : PathUnit) : (s.setPu x).fu = s.fu := rfl
@[simp] theorem au_setPu (x : PathUnit) : (s.setPu x).au = s.au := rfl
@[simp] theorem wu_setPu (x : PathUnit) : (s.setPu x).wu = s.wu := rfl
@[simp] theorem lu_setPu (x : PathUnit) : (s.setPu x).lu = s.lu := rfl
@[simp] theorem gu_setPu (x : PathUnit) : (s.setPu x).gu = s.gu := rfl
@[simp] theorem ls_setPu (x : PathUnit) : (s.setPu x).ls = s.ls := rfl
@[simp] theorem pu_setPu (x : PathUnit) : (s.setPu x).pu = x := rfl
@[simp] theorem ru_setPu (x : PathUnit) : (s.setPu x).ru = s.ru := rfl
@[simp] theorem mem_setPu (x : PathUnit) : (s.setPu x).mem = s.mem := rfl
@[simp] theorem meetings_setPu (x : PathUnit) : (s.setPu x).meetings = s.meetings := rfl
@[simp] theorem pending_setPu (x : PathUnit) : (s.setPu x).pending = s.pending := rfl
@[simp] theorem setPu_setPu (x y : PathUnit) : (s.setPu x).setPu y = s.setPu y := rfl
@[simp] theorem setPu_self : s.setPu s.pu = s := rfl

/-! ## setRu -/

@[simp] theorem inReset_setRu (x : ReportUnit) : (s.setRu x).inReset = s.inReset := rfl
@[simp] theorem sq_setRu (x : ReportUnit) : (s.setRu x).sq = s.sq := rfl
@[simp] theorem fu_setRu (x : ReportUnit) : (s.setRu x).fu = s.fu := rfl
@[simp] theorem au_setRu (x : ReportUnit) : (s.setRu x).au = s.au := rfl
@[simp] theorem wu_setRu (x : ReportUnit) : (s.setRu x).wu = s.wu := rfl
@[simp] theorem lu_setRu (x : ReportUnit) : (s.setRu x).lu = s.lu := rfl
@[simp] theorem gu_setRu (x : ReportUnit) : (s.setRu x).gu = s.gu := rfl
@[simp] theorem ls_setRu (x : ReportUnit) : (s.setRu x).ls = s.ls := rfl
@[simp] theorem pu_setRu (x : ReportUnit) : (s.setRu x).pu = s.pu := rfl
@[simp] theorem ru_setRu (x : ReportUnit) : (s.setRu x).ru = x := rfl
@[simp] theorem mem_setRu (x : ReportUnit) : (s.setRu x).mem = s.mem := rfl
@[simp] theorem meetings_setRu (x : ReportUnit) : (s.setRu x).meetings = s.meetings := rfl
@[simp] theorem pending_setRu (x : ReportUnit) : (s.setRu x).pending = s.pending := rfl
@[simp] theorem setRu_setRu (x y : ReportUnit) : (s.setRu x).setRu y = s.setRu y := rfl
@[simp] theorem setRu_self : s.setRu s.ru = s := rfl

/-! ## setMem -/

@[simp] theorem inReset_setMem (x : List Host.Cell) : (s.setMem x).inReset = s.inReset := rfl
@[simp] theorem sq_setMem (x : List Host.Cell) : (s.setMem x).sq = s.sq := rfl
@[simp] theorem fu_setMem (x : List Host.Cell) : (s.setMem x).fu = s.fu := rfl
@[simp] theorem au_setMem (x : List Host.Cell) : (s.setMem x).au = s.au := rfl
@[simp] theorem wu_setMem (x : List Host.Cell) : (s.setMem x).wu = s.wu := rfl
@[simp] theorem lu_setMem (x : List Host.Cell) : (s.setMem x).lu = s.lu := rfl
@[simp] theorem gu_setMem (x : List Host.Cell) : (s.setMem x).gu = s.gu := rfl
@[simp] theorem ls_setMem (x : List Host.Cell) : (s.setMem x).ls = s.ls := rfl
@[simp] theorem pu_setMem (x : List Host.Cell) : (s.setMem x).pu = s.pu := rfl
@[simp] theorem ru_setMem (x : List Host.Cell) : (s.setMem x).ru = s.ru := rfl
@[simp] theorem mem_setMem (x : List Host.Cell) : (s.setMem x).mem = x := rfl
@[simp] theorem meetings_setMem (x : List Host.Cell) : (s.setMem x).meetings = s.meetings := rfl
@[simp] theorem pending_setMem (x : List Host.Cell) : (s.setMem x).pending = s.pending := rfl
@[simp] theorem setMem_setMem (x y : List Host.Cell) : (s.setMem x).setMem y = s.setMem y := rfl
@[simp] theorem setMem_self : s.setMem s.mem = s := rfl

/-! ## setMeetings -/

@[simp] theorem inReset_setMeetings (x : Nat) : (s.setMeetings x).inReset = s.inReset := rfl
@[simp] theorem sq_setMeetings (x : Nat) : (s.setMeetings x).sq = s.sq := rfl
@[simp] theorem fu_setMeetings (x : Nat) : (s.setMeetings x).fu = s.fu := rfl
@[simp] theorem au_setMeetings (x : Nat) : (s.setMeetings x).au = s.au := rfl
@[simp] theorem wu_setMeetings (x : Nat) : (s.setMeetings x).wu = s.wu := rfl
@[simp] theorem lu_setMeetings (x : Nat) : (s.setMeetings x).lu = s.lu := rfl
@[simp] theorem gu_setMeetings (x : Nat) : (s.setMeetings x).gu = s.gu := rfl
@[simp] theorem ls_setMeetings (x : Nat) : (s.setMeetings x).ls = s.ls := rfl
@[simp] theorem pu_setMeetings (x : Nat) : (s.setMeetings x).pu = s.pu := rfl
@[simp] theorem ru_setMeetings (x : Nat) : (s.setMeetings x).ru = s.ru := rfl
@[simp] theorem mem_setMeetings (x : Nat) : (s.setMeetings x).mem = s.mem := rfl
@[simp] theorem meetings_setMeetings (x : Nat) : (s.setMeetings x).meetings = x := rfl
@[simp] theorem pending_setMeetings (x : Nat) : (s.setMeetings x).pending = s.pending := rfl
@[simp] theorem setMeetings_setMeetings (x y : Nat) : (s.setMeetings x).setMeetings y = s.setMeetings y := rfl
@[simp] theorem setMeetings_self : s.setMeetings s.meetings = s := rfl

/-! ## setPending -/

@[simp] theorem inReset_setPending (x : List Instr) : (s.setPending x).inReset = s.inReset := rfl
@[simp] theorem sq_setPending (x : List Instr) : (s.setPending x).sq = s.sq := rfl
@[simp] theorem fu_setPending (x : List Instr) : (s.setPending x).fu = s.fu := rfl
@[simp] theorem au_setPending (x : List Instr) : (s.setPending x).au = s.au := rfl
@[simp] theorem wu_setPending (x : List Instr) : (s.setPending x).wu = s.wu := rfl
@[simp] theorem lu_setPending (x : List Instr) : (s.setPending x).lu = s.lu := rfl
@[simp] theorem gu_setPending (x : List Instr) : (s.setPending x).gu = s.gu := rfl
@[simp] theorem ls_setPending (x : List Instr) : (s.setPending x).ls = s.ls := rfl
@[simp] theorem pu_setPending (x : List Instr) : (s.setPending x).pu = s.pu := rfl
@[simp] theorem ru_setPending (x : List Instr) : (s.setPending x).ru = s.ru := rfl
@[simp] theorem mem_setPending (x : List Instr) : (s.setPending x).mem = s.mem := rfl
@[simp] theorem meetings_setPending (x : List Instr) : (s.setPending x).meetings = s.meetings := rfl
@[simp] theorem pending_setPending (x : List Instr) : (s.setPending x).pending = x := rfl
@[simp] theorem setPending_setPending (x y : List Instr) : (s.setPending x).setPending y = s.setPending y := rfl
@[simp] theorem setPending_self : s.setPending s.pending = s := rfl

end Sys2Proof.Machine
end

