-- ==== Sys2Proof/Laws/Ops.lean ====
section
/-! SUPPORT. The laws of the shared operations: tables by index, sets held as bits, saturating counters, the external memory
and the raising of a cause. -/

namespace Sys2Proof.Machine

/-! ## Tables -/

theorem getElem_tabulate {α : Type} {n : Nat} (f : Fin n → α) (i : Nat) (h : i < n) :
    (tabulate f)[i] = f ⟨i, h⟩ := by
  simp [tabulate, Vector.getElem_mk]

@[simp] theorem getFin_tabulate {α : Type} {n : Nat} (f : Fin n → α) (i : Fin n) : (tabulate f)[i] = f i :=
  getElem_tabulate f i.val i.isLt

theorem vector_ext_fin {α : Type} {n : Nat} {x y : Vector α n} (h : ∀ i : Fin n, x[i] = y[i]) : x = y :=
  Vector.ext fun i hi => h ⟨i, hi⟩

theorem tabulate_congr {α : Type} {n : Nat} {f g : Fin n → α} (h : ∀ i, f i = g i) : tabulate f = tabulate g := by
  rw [show f = g from funext h]

theorem getFin_set {α : Type} {n : Nat} (x : Vector α n) (i j : Fin n) (v : α) :
    (x.set i.val v i.isLt)[j] = if i = j then v else x[j] := by
  simp [Fin.getElem_fin, Vector.getElem_set, Fin.ext_iff]

@[simp] theorem getFin_replicate {α : Type} {n : Nat} (v : α) (i : Fin n) : (Vector.replicate n v)[i] = v := by
  simp [Fin.getElem_fin]

/-! ## Sets of bits -/

theorem getLsbD_bitsBelow (n : Nat) (f : Nat → Bool) (k i : Nat) (h : k ≤ n) :
    (bitsBelow n f k).getLsbD i = (decide (i < k) && f i) := by
  induction k with
  | zero => simp [bitsBelow]
  | succ k ih =>
    have ih := ih (by omega)
    have split : decide (i < k + 1) = (decide (k = i) || decide (i < k)) := by
      rw [← Bool.decide_or]; exact decide_eq_decide.mpr (by omega)
    rw [split]
    cases hf : f k with
    | true =>
      rw [bitsBelow, if_pos hf, BitVec.getLsbD_or, ih, BitVec.getLsbD_twoPow]
      by_cases hk : k = i
      · subst hk
        have : k < n := by omega
        simp [hf, this]
      · simp [hk]
    | false =>
      rw [bitsBelow, if_neg (by simp [hf]), ih]
      by_cases hk : k = i
      · subst hk; simp [hf]
      · simp [hk]

@[simp] theorem getLsbD_bitsOf (n : Nat) (f : Nat → Bool) (i : Nat) :
    (bitsOf n f).getLsbD i = (decide (i < n) && f i) :=
  getLsbD_bitsBelow n f n i (Nat.le_refl n)

@[simp] theorem getLsbD_bitInsert {n : Nat} (x : BitVec n) (i j : Nat) :
    (bitInsert x i).getLsbD j = (x.getLsbD j || (decide (i < n) && decide (i = j))) := by
  simp [bitInsert, BitVec.getLsbD_twoPow]

@[simp] theorem getLsbD_bitErase {n : Nat} (x : BitVec n) (i j : Nat) :
    (bitErase x i).getLsbD j = (x.getLsbD j && !decide (i = j)) := by
  simp only [bitErase, BitVec.getLsbD_and, BitVec.getLsbD_not, BitVec.getLsbD_twoPow]
  by_cases hj : j < n
  · by_cases hi : i = j
    · subst hi; simp [hj]
    · simp [hi, hj]
  · simp [BitVec.getLsbD_of_ge x j (by omega)]

theorem getLsbD_bitPut {n : Nat} (x : BitVec n) (i j : Nat) (b : Bool) (h : i < n) :
    (bitPut x i b).getLsbD j = if i = j then b else x.getLsbD j := by
  cases b with
  | true =>
    by_cases hi : i = j
    · subst hi; simp [bitPut, h]
    · simp [bitPut, hi]
  | false => by_cases hi : i = j <;> simp [bitPut, hi, -BitVec.getLsbD_eq_getElem]

/-! ## Saturating counters -/

theorem toNat_saturate16 (c : Half) (n : Nat) : (saturate16 c n).toNat = min 65535 (c.toNat + n) := by
  simp [saturate16, BitVec.toNat_ofNat]

theorem toNat_saturate8 (c : Byte) : (saturate8 c).toNat = min 255 (c.toNat + 1) := by
  simp [saturate8, BitVec.toNat_ofNat]

/-! ## External memory -/

theorem Memory.wf_nil : Memory.wf [] := by simp [Memory.wf]

theorem Memory.wf_tail {c : Host.Cell} {m : List Host.Cell} (h : Memory.wf (c :: m)) : Memory.wf m :=
  ⟨(List.pairwise_cons.mp h.1).2, fun d hd => h.2 d (List.mem_cons_of_mem c hd)⟩

theorem Memory.cons_hidden {a : Nat} {v : Byte} (h : v = Config.powerOnByte) (m : List Host.Cell) :
    Memory.cons a v m = m := if_pos h

theorem Memory.cons_listed {a : Nat} {v : Byte} (h : v ≠ Config.powerOnByte) (m : List Host.Cell) :
    Memory.cons a v m = (a, v) :: m := if_neg h

/-- A cell in front of a memory whose addresses are all higher keeps the canonical form. -/
theorem Memory.wf_cons {a : Nat} {v : Byte} {m : List Host.Cell} (h : Memory.wf m) (low : ∀ c ∈ m, a < c.1) :
    Memory.wf (Memory.cons a v m) := by
  by_cases hv : v = Config.powerOnByte
  · rw [Memory.cons_hidden hv]; exact h
  · rw [Memory.cons_listed hv]
    refine ⟨List.pairwise_cons.mpr ⟨low, h.1⟩, ?_⟩
    intro c hc
    rcases List.mem_cons.mp hc with rfl | hc
    · exact hv
    · exact h.2 c hc

theorem Memory.lowest {b : Nat} {w : Byte} {m : List Host.Cell} (h : Memory.wf ((b, w) :: m)) :
    ∀ c ∈ m, b < c.1 := (List.pairwise_cons.mp h.1).1

/-- Every cell of a written memory is the written one or stood there before. -/
theorem Memory.mem_write {m : List Host.Cell} {a : Nat} {v : Byte} {c : Host.Cell} (h : c ∈ Memory.write m a v) :
    c.1 = a ∨ c ∈ m := by
  have front : ∀ (l : List Host.Cell), c ∈ Memory.cons a v l → c.1 = a ∨ c ∈ l := by
    intro l hc
    by_cases hv : v = Config.powerOnByte
    · rw [Memory.cons_hidden hv] at hc; exact .inr hc
    · rw [Memory.cons_listed hv] at hc
      rcases List.mem_cons.mp hc with rfl | hc
      · exact .inl rfl
      · exact .inr hc
  induction m with
  | nil => simpa [Memory.write] using front [] h
  | cons d m ih =>
    obtain ⟨b, w⟩ := d
    simp only [Memory.write] at h
    split at h
    · exact front _ h
    · split at h
      · exact (front _ h).imp id (List.mem_cons_of_mem _)
      · rcases List.mem_cons.mp h with rfl | h
        · exact .inr (List.mem_cons_self ..)
        · exact (ih h).imp id (List.mem_cons_of_mem _)

/-- A write keeps the canonical form. -/
theorem Memory.wf_write {m : List Host.Cell} (h : Memory.wf m) (a : Nat) (v : Byte) : Memory.wf (Memory.write m a v) := by
  induction m with
  | nil => exact Memory.wf_cons Memory.wf_nil (by simp)
  | cons d m ih =>
    obtain ⟨b, w⟩ := d
    have low := Memory.lowest h
    simp only [Memory.write]
    split
    · rename_i lt
      refine Memory.wf_cons h fun c hc => ?_
      rcases List.mem_cons.mp hc with rfl | hc
      · exact lt
      · exact Nat.lt_trans lt (low c hc)
    · split
      · rename_i eq
        exact Memory.wf_cons (Memory.wf_tail h) fun c hc => eq ▸ low c hc
      · rename_i notLt notEq
        refine ⟨List.pairwise_cons.mpr ⟨fun c hc => ?_, (ih (Memory.wf_tail h)).1⟩, fun c hc => ?_⟩
        · rcases Memory.mem_write hc with eq | hc
          · show b < c.1; omega
          · exact low c hc
        · rcases List.mem_cons.mp hc with rfl | hc
          · exact h.2 _ (List.mem_cons_self ..)
          · exact (ih (Memory.wf_tail h)).2 c hc

theorem Memory.wf_writeLane {m : List Host.Cell} (h : Memory.wf m) (w : BusWord) (k : Nat) :
    Memory.wf (Memory.writeLane m w k) := by
  unfold Memory.writeLane; split
  · exact Memory.wf_write h _ _
  · exact h

theorem Memory.wf_writeWord {m : List Host.Cell} (h : Memory.wf m) (w : BusWord) : Memory.wf (Memory.writeWord m w) :=
  Memory.wf_writeLane (Memory.wf_writeLane (Memory.wf_writeLane (Memory.wf_writeLane h w 0) w 1) w 2) w 3

theorem Memory.wf_writeWords {m : List Host.Cell} (h : Memory.wf m) (ws : List BusWord) :
    Memory.wf (Memory.writeWords m ws) := by
  unfold Memory.writeWords
  induction ws generalizing m with
  | nil => exact h
  | cons w ws ih => exact ih (Memory.wf_writeWord h w)

/-- A byte below every listed address reads as an unwritten one. -/
theorem Memory.read_below {m : List Host.Cell} {a : Nat} (low : ∀ c ∈ m, a < c.1) :
    Memory.read m a = Config.powerOnByte := by
  induction m with
  | nil => rfl
  | cons d m ih =>
    obtain ⟨b, w⟩ := d
    have : a < b := low (b, w) (List.mem_cons_self ..)
    simp only [Memory.read]
    rw [if_neg (by omega)]
    exact ih fun c hc => low c (List.mem_cons_of_mem _ hc)

theorem Memory.read_cons {m : List Host.Cell} {a : Nat} (low : ∀ c ∈ m, a < c.1) (v : Byte) (b : Nat) :
    Memory.read (Memory.cons a v m) b = if a = b then v else Memory.read m b := by
  by_cases hv : v = Config.powerOnByte
  · rw [Memory.cons_hidden hv]
    by_cases hb : a = b
    · subst hb; rw [if_pos rfl, Memory.read_below low, hv]
    · rw [if_neg hb]
  · rw [Memory.cons_listed hv, Memory.read]

/-- A byte read after a write is the byte written at its address, and as before at every other. -/
theorem Memory.read_write {m : List Host.Cell} (h : Memory.wf m) (a : Nat) (v : Byte) (b : Nat) :
    Memory.read (Memory.write m a v) b = if a = b then v else Memory.read m b := by
  induction m with
  | nil => exact Memory.read_cons (by simp) v b
  | cons d m ih =>
    obtain ⟨c, w⟩ := d
    have low := Memory.lowest h
    simp only [Memory.write]
    split
    · rename_i lt
      refine Memory.read_cons (fun e he => ?_) v b
      rcases List.mem_cons.mp he with rfl | he
      · exact lt
      · exact Nat.lt_trans lt (low e he)
    · split
      · rename_i eq
        subst eq
        rw [Memory.read_cons low]
        by_cases hb : a = b <;> simp [Memory.read, hb]
      · rename_i notLt notEq
        simp only [Memory.read, ih (Memory.wf_tail h)]
        by_cases hc : c = b
        · subst hc; rw [if_pos rfl, if_neg (by omega), if_pos rfl]
        · simp [hc]

theorem Memory.read_writeLane {m : List Host.Cell} (h : Memory.wf m) (w : BusWord) (k b : Nat) :
    Memory.read (Memory.writeLane m w k) b =
      if w.enables.getLsbD k = true ∧ w.address.toAddr.toNat + k = b then wordByte w.data k else Memory.read m b := by
  unfold Memory.writeLane
  split
  · rename_i on; rw [Memory.read_write h]; simp [on]
  · rename_i off; simp [off]

/-- A byte no enabled lane of a written word covers reads as before. -/
theorem Memory.read_writeWord_outside {m : List Host.Cell} (h : Memory.wf m) (w : BusWord) (b : Nat)
    (outside : ∀ k < 4, w.enables.getLsbD k = true → w.address.toAddr.toNat + k ≠ b) :
    Memory.read (Memory.writeWord m w) b = Memory.read m b := by
  have h0 := Memory.wf_writeLane h w 0
  have h1 := Memory.wf_writeLane h0 w 1
  have h2 := Memory.wf_writeLane h1 w 2
  have skip : ∀ k < 4, ¬(w.enables.getLsbD k = true ∧ w.address.toAddr.toNat + k = b) :=
    fun k hk hc => outside k hk hc.1 hc.2
  unfold Memory.writeWord
  rw [Memory.read_writeLane h2, if_neg (skip 3 (by omega)), Memory.read_writeLane h1, if_neg (skip 2 (by omega)),
    Memory.read_writeLane h0, if_neg (skip 1 (by omega)), Memory.read_writeLane h, if_neg (skip 0 (by omega))]

/-- Byte k of a written word reads as the word's byte if its enable is asserted, and as before if not. -/
theorem Memory.read_writeWord_lane {m : List Host.Cell} (h : Memory.wf m) (w : BusWord) (k : Nat) (hk : k < 4) :
    Memory.read (Memory.writeWord m w) (w.address.toAddr.toNat + k) =
      if w.enables.getLsbD k = true then wordByte w.data k else Memory.read m (w.address.toAddr.toNat + k) := by
  have h0 := Memory.wf_writeLane h w 0
  have h1 := Memory.wf_writeLane h0 w 1
  have h2 := Memory.wf_writeLane h1 w 2
  unfold Memory.writeWord
  rw [Memory.read_writeLane h2, Memory.read_writeLane h1, Memory.read_writeLane h0, Memory.read_writeLane h]
  have : k = 0 ∨ k = 1 ∨ k = 2 ∨ k = 3 := by omega
  rcases this with rfl | rfl | rfl | rfl <;> simp

/-- A byte no enabled lane of the written words covers reads as before. -/
theorem Memory.read_writeWords_outside {m : List Host.Cell} (h : Memory.wf m) (ws : List BusWord) (b : Nat)
    (outside : ∀ w ∈ ws, ∀ k < 4, w.enables.getLsbD k = true → w.address.toAddr.toNat + k ≠ b) :
    Memory.read (Memory.writeWords m ws) b = Memory.read m b := by
  unfold Memory.writeWords
  induction ws generalizing m with
  | nil => rfl
  | cons w ws ih =>
    rw [List.foldl_cons, ih (Memory.wf_writeWord h w) fun x hx => outside x (List.mem_cons_of_mem _ hx),
      Memory.read_writeWord_outside h w b (outside w (List.mem_cons_self ..))]

/-- Equal memories are equal data: canonical memories that read alike at every address are the same list. -/
theorem Memory.eq_of_read_eq {m n : List Host.Cell} (hm : Memory.wf m) (hn : Memory.wf n)
    (same : ∀ a, Memory.read m a = Memory.read n a) : m = n := by
  induction m generalizing n with
  | nil =>
    cases n with
    | nil => rfl
    | cons d n =>
      have := same d.1
      simp only [Memory.read, if_true] at this
      exact absurd this.symm (hn.2 d (List.mem_cons_self ..))
  | cons c m ih =>
    cases n with
    | nil =>
      have := same c.1
      simp only [Memory.read, if_true] at this
      exact absurd this (hm.2 c (List.mem_cons_self ..))
    | cons d n =>
      obtain ⟨a, v⟩ := c
      obtain ⟨b, w⟩ := d
      have lowm := Memory.lowest hm
      have lown := Memory.lowest hn
      have heads : a = b := by
        rcases Nat.lt_trichotomy a b with lt | eq | gt
        · have := same a
          simp only [Memory.read, if_true] at this
          rw [if_neg (by omega), Memory.read_below fun e he => Nat.lt_trans lt (lown e he)] at this
          exact absurd this (hm.2 (a, v) (List.mem_cons_self ..))
        · exact eq
        · have := same b
          simp only [Memory.read, if_true] at this
          rw [if_neg (by omega), Memory.read_below fun e he => Nat.lt_trans gt (lowm e he)] at this
          exact absurd this.symm (hn.2 (b, w) (List.mem_cons_self ..))
      subst heads
      have value : v = w := by simpa [Memory.read] using same a
      subst value
      have tails : m = n := by
        refine ih (Memory.wf_tail hm) (Memory.wf_tail hn) fun x => ?_
        have := same x
        simp only [Memory.read] at this
        by_cases hx : a = x
        · subst hx
          rw [Memory.read_below lowm, Memory.read_below lown]
        · simpa [hx] using this
      rw [tails]

/-! ## Causes -/

/-- A raise changes the report unit's pending set alone. -/
theorem raise_eq (c : Cause) (s : State) :
    raise c s = s.setRu { s.ru with pending := bitInsert s.ru.pending c.bit } := rfl

theorem Cause.bit_lt (c : Cause) : c.bit < 9 := by cases c <;> decide

end Sys2Proof.Machine
end

