-- ==== Sys2Proof/Laws/Frames.lean ====
section
/-! SUPPORT. For each shared operation, the blocks it can change and the ones it leaves. An operation on one block is stated as
an equation, `f s` is `s` with that block replaced; an operation on several as a relation between `s` and `f s`, whose fields
are the blocks left. -/

namespace Sys2Proof.Machine

/-! ## Ends of events -/

theorem settle_frame (s : State) :
    settle s = ((s.setFu { s.fu with fetchRequest := (settle s).fu.fetchRequest }).setPu
      { s.pu with waitCount := (settle s).pu.waitCount, arbiter := (settle s).pu.arbiter }).setRu { s.ru with attention := attentionDue s.ru } := rfl

theorem wantsFetch_settleAttention (s : State) : wantsFetch (settleAttention s) = wantsFetch s := rfl

theorem settle_fetchRequest (s : State) : (settle s).fu.fetchRequest = wantsFetch s := rfl

theorem settle_waitCount (s : State) : (settle s).pu.waitCount = waitAfterRequest s := rfl

theorem settle_arbiter (s : State) : (settle s).pu.arbiter = arbitrate (settleRequest (settleAttention s)) := rfl

theorem answer_eq (s : State) : answer s = .next (settle s) := rfl

theorem outOfReset_asserted (f : State → State) (s : State) (h : s.inReset = true) : outOfReset f s = s := by
  simp [outOfReset, h]

theorem outOfReset_released (f : State → State) (s : State) (h : s.inReset = false) : outOfReset f s = f s := by
  simp [outOfReset, h]

/-! ## Path -/

theorem pushWord_frame (w : BusWrite) (refused : Bool) (s : State) :
    pushWord w refused s = s.setPu (pushWord w refused s).pu := by
  unfold pushWord; dsimp only; split <;> rfl

theorem refuseWord_frame (w : BusWrite) (s : State) :
    refuseWord w s = (s.setPu (refuseWord w s).pu).setRu (raise .refused s).ru := by
  unfold refuseWord; rw [pushWord_frame]; rfl

theorem waitRead_frame (r : BusRead) (s : State) : waitRead r s = s.setPu (waitRead r s).pu := rfl

theorem answerRead_frame (r : BusRead) (s : State) :
    answerRead r s = (s.setPu { s.pu with readData := answeredWords s r }).setRu (answerRead r s).ru := by
  unfold answerRead; dsimp only; split <;> rfl

theorem presentRead_frame (r : BusRead) (s : State) :
    presentRead r s = (s.setPu (presentRead r s).pu).setRu (presentRead r s).ru := by
  unfold presentRead; split
  · rw [answerRead_frame]; rfl
  · rfl

theorem presentRead_answered {r : BusRead} {s : State} (h : (answeredWord s r.address).isSome = true) :
    presentRead r s = answerRead r s := by
  unfold presentRead; split <;> simp_all

theorem presentRead_forwarded {r : BusRead} {s : State} (h : answeredWord s r.address = none) :
    presentRead r s = waitRead r s := by
  unfold presentRead; split <;> simp_all

theorem grantWaiting_frame (n : Fin 9) (s : State) :
    grantWaiting n s = (s.setPu (grantWaiting n s).pu).setMem (grantWaiting n s).mem := by
  unfold grantWaiting grantProcessor; split <;> rfl

theorem grantFetch_frame (s : State) : grantFetch s = s.setPu (grantFetch s).pu := by
  unfold grantFetch; split <;> rfl

theorem grantClaim_frame (b : Bool) (claim : Claim) (s : State) :
    grantClaim b claim s = (s.setPu (grantClaim b claim s).pu).setMem (grantClaim b claim s).mem := by
  unfold grantClaim
  repeat' split
  all_goals first | exact grantWaiting_frame _ s | (rw [grantFetch_frame]; rfl)

theorem grantPort_frame (b : Bool) (s : State) :
    grantPort b s = (s.setPu (grantPort b s).pu).setMem (grantPort b s).mem := by
  unfold grantPort; split
  · exact grantClaim_frame b _ s
  all_goals rfl

theorem endTransaction_frame (s : State) : endTransaction s = s.setPu (endTransaction s).pu := by
  unfold endTransaction; split <;> rfl

/-! ## Water and light -/

theorem wantClose_frame (v : Nat) (s : State) : wantClose v s = s.setWu (wantClose v s).wu := by
  unfold wantClose applyOrDefer wantedClosed; repeat' split
  all_goals rfl

theorem closes_frame (vs : List Nat) (s : State) :
    vs.foldl (fun s v => wantClose v s) s = s.setWu (vs.foldl (fun s v => wantClose v s) s).wu := by
  induction vs generalizing s with
  | nil => rfl
  | cons v vs ih => rw [List.foldl_cons, ih, wantClose_frame]; rfl

theorem waterWinddown_frame (s : State) : waterWinddown s = s.setWu (waterWinddown s).wu := by
  unfold waterWinddown; rw [closes_frame]; rfl

/-- Wind-down entry at the water unit does not look at the sequencer. -/
theorem waterWinddown_sq (s : State) (x : Sequencer) :
    (waterWinddown (s.setSq x)) = (s.setSq x).setWu (waterWinddown s).wu := by
  have step : ∀ (v : Nat) (t : State), wantClose v (t.setSq x) = (wantClose v t).setSq x := by
    intro v t
    have same : (t.setSq x).wu.wanted.getLsbD v = t.wu.wanted.getLsbD v := rfl
    have b : hasBlocking (wantedClosed v (t.setSq x)) v = hasBlocking (wantedClosed v t) v := rfl
    rw [wantClose, wantClose, same]
    by_cases w : t.wu.wanted.getLsbD v = true
    · rw [if_pos w, if_pos w, applyOrDefer, applyOrDefer, b]
      by_cases d : hasBlocking (wantedClosed v t) v = true
      · rw [if_pos d, if_pos d]; rfl
      · rw [if_neg d, if_neg d]; rfl
    · rw [if_neg w, if_neg w]
  have all : ∀ (vs : List Nat) (t : State),
      vs.foldl (fun s v => wantClose v s) (t.setSq x) = (vs.foldl (fun s v => wantClose v s) t).setSq x := by
    intro vs
    induction vs with
    | nil => intro t; rfl
    | cons v vs ih => intro t; rw [List.foldl_cons, List.foldl_cons, step, ih]
  have h := all (List.range 192) (s.setWu { s.wu with commanded := Vector.replicate 16 0 })
  have frame := waterWinddown_frame s
  unfold waterWinddown at frame ⊢
  rw [show (s.setSq x).setWu { (s.setSq x).wu with commanded := Vector.replicate 16 0 } =
    (s.setWu { s.wu with commanded := Vector.replicate 16 0 }).setSq x from rfl, h, frame]
  rfl

theorem waterPeriod_frame (s : State) : waterPeriod s = s.setWu (waterPeriod s).wu := rfl

theorem lightPeriod_frame (s : State) : lightPeriod s = s.setLu (lightPeriod s).lu := rfl

theorem releaseFollow_frame (g : Fin 64) (c : Option (Fin 4)) (s : State) :
    releaseFollow g c s = s.setLu (releaseFollow g c s).lu := by unfold releaseFollow; split <;> rfl

/-! ## Show -/

theorem enterRunning_frame (s : State) : enterRunning s = s.setSq (enterRunning s).sq := by
  unfold enterRunning setShow; split <;> rfl

theorem primingTest_frame (s : State) : primingTest s = s.setSq (primingTest s).sq := by
  unfold primingTest
  repeat' split
  all_goals first | rfl | exact enterRunning_frame s

theorem holdEntryMatched_frame (s : State) : holdEntryMatched s = s.setSq (holdEntryMatched s).sq := by
  unfold holdEntryMatched; split <;> rfl

theorem noHoldEntryMatched_frame (s : State) : noHoldEntryMatched s = s.setSq (noHoldEntryMatched s).sq := by
  unfold noHoldEntryMatched; repeat' split
  all_goals rfl

/-! ## Relations between a state and the one an operation leaves -/

/-- Only sequencer, water, light and report unit may differ. -/
structure ShowOnly (s t : State) : Prop where
  fu : t.fu = s.fu
  au : t.au = s.au
  gu : t.gu = s.gu
  ls : t.ls = s.ls
  pu : t.pu = s.pu
  mem : t.mem = s.mem
  meetings : t.meetings = s.meetings
  pending : t.pending = s.pending
  inReset : t.inReset = s.inReset

/-- Only sequencer, fetch unit, report unit and the count of meetings may differ. -/
structure HeadOnly (s t : State) : Prop where
  au : t.au = s.au
  wu : t.wu = s.wu
  lu : t.lu = s.lu
  gu : t.gu = s.gu
  ls : t.ls = s.ls
  pu : t.pu = s.pu
  mem : t.mem = s.mem
  pending : t.pending = s.pending
  inReset : t.inReset = s.inReset

/-- Only audio and light unit may differ. -/
structure MusicOnly (s t : State) : Prop where
  sq : t.sq = s.sq
  fu : t.fu = s.fu
  wu : t.wu = s.wu
  gu : t.gu = s.gu
  ls : t.ls = s.ls
  pu : t.pu = s.pu
  ru : t.ru = s.ru
  mem : t.mem = s.mem
  meetings : t.meetings = s.meetings
  pending : t.pending = s.pending
  inReset : t.inReset = s.inReset

/-- Guard unit, limit store, path unit, memory, queue and reset are the same. -/
structure PeriodOnly (s t : State) : Prop where
  gu : t.gu = s.gu
  ls : t.ls = s.ls
  pu : t.pu = s.pu
  mem : t.mem = s.mem
  pending : t.pending = s.pending
  inReset : t.inReset = s.inReset

/-- Water, light, guard unit, limit store, memory, queue and reset are the same. -/
structure FetchOnly (s t : State) : Prop where
  wu : t.wu = s.wu
  lu : t.lu = s.lu
  gu : t.gu = s.gu
  ls : t.ls = s.ls
  mem : t.mem = s.mem
  pending : t.pending = s.pending
  inReset : t.inReset = s.inReset

theorem ShowOnly.refl (s : State) : ShowOnly s s := ⟨rfl, rfl, rfl, rfl, rfl, rfl, rfl, rfl, rfl⟩

theorem ShowOnly.trans {s t u : State} (h : ShowOnly s t) (k : ShowOnly t u) : ShowOnly s u :=
  ⟨k.fu.trans h.fu, k.au.trans h.au, k.gu.trans h.gu, k.ls.trans h.ls, k.pu.trans h.pu, k.mem.trans h.mem, k.meetings.trans h.meetings, k.pending.trans h.pending, k.inReset.trans h.inReset⟩

theorem HeadOnly.refl (s : State) : HeadOnly s s := ⟨rfl, rfl, rfl, rfl, rfl, rfl, rfl, rfl, rfl⟩

theorem HeadOnly.trans {s t u : State} (h : HeadOnly s t) (k : HeadOnly t u) : HeadOnly s u :=
  ⟨k.au.trans h.au, k.wu.trans h.wu, k.lu.trans h.lu, k.gu.trans h.gu, k.ls.trans h.ls, k.pu.trans h.pu, k.mem.trans h.mem, k.pending.trans h.pending, k.inReset.trans h.inReset⟩

theorem MusicOnly.refl (s : State) : MusicOnly s s := ⟨rfl, rfl, rfl, rfl, rfl, rfl, rfl, rfl, rfl, rfl, rfl⟩

theorem MusicOnly.trans {s t u : State} (h : MusicOnly s t) (k : MusicOnly t u) : MusicOnly s u :=
  ⟨k.sq.trans h.sq, k.fu.trans h.fu, k.wu.trans h.wu, k.gu.trans h.gu, k.ls.trans h.ls, k.pu.trans h.pu, k.ru.trans h.ru, k.mem.trans h.mem, k.meetings.trans h.meetings, k.pending.trans h.pending, k.inReset.trans h.inReset⟩

theorem PeriodOnly.refl (s : State) : PeriodOnly s s := ⟨rfl, rfl, rfl, rfl, rfl, rfl⟩

theorem PeriodOnly.trans {s t u : State} (h : PeriodOnly s t) (k : PeriodOnly t u) : PeriodOnly s u :=
  ⟨k.gu.trans h.gu, k.ls.trans h.ls, k.pu.trans h.pu, k.mem.trans h.mem, k.pending.trans h.pending, k.inReset.trans h.inReset⟩

theorem FetchOnly.refl (s : State) : FetchOnly s s := ⟨rfl, rfl, rfl, rfl, rfl, rfl, rfl⟩

theorem FetchOnly.trans {s t u : State} (h : FetchOnly s t) (k : FetchOnly t u) : FetchOnly s u :=
  ⟨k.wu.trans h.wu, k.lu.trans h.lu, k.gu.trans h.gu, k.ls.trans h.ls, k.mem.trans h.mem, k.pending.trans h.pending, k.inReset.trans h.inReset⟩

theorem ShowOnly.toPeriod {s t : State} (h : ShowOnly s t) : PeriodOnly s t :=
  ⟨h.gu, h.ls, h.pu, h.mem, h.pending, h.inReset⟩

theorem HeadOnly.toPeriod {s t : State} (h : HeadOnly s t) : PeriodOnly s t :=
  ⟨h.gu, h.ls, h.pu, h.mem, h.pending, h.inReset⟩

theorem MusicOnly.toPeriod {s t : State} (h : MusicOnly s t) : PeriodOnly s t :=
  ⟨h.gu, h.ls, h.pu, h.mem, h.pending, h.inReset⟩

theorem HeadOnly.toFetch {s t : State} (h : HeadOnly s t) : FetchOnly s t :=
  ⟨h.wu, h.lu, h.gu, h.ls, h.mem, h.pending, h.inReset⟩

/-! ## Wind-down, faults and transitions -/

theorem ShowOnly.ofSq (s : State) (x : Sequencer) : ShowOnly s (s.setSq x) := ⟨rfl, rfl, rfl, rfl, rfl, rfl, rfl, rfl, rfl⟩

theorem ShowOnly.ofWu (s : State) (x : WaterUnit) : ShowOnly s (s.setWu x) := ⟨rfl, rfl, rfl, rfl, rfl, rfl, rfl, rfl, rfl⟩

theorem ShowOnly.ofLu (s : State) (x : LightUnit) : ShowOnly s (s.setLu x) := ⟨rfl, rfl, rfl, rfl, rfl, rfl, rfl, rfl, rfl⟩

theorem ShowOnly.ofRu (s : State) (x : ReportUnit) : ShowOnly s (s.setRu x) := ⟨rfl, rfl, rfl, rfl, rfl, rfl, rfl, rfl, rfl⟩

theorem ShowOnly.raised (c : Cause) (s : State) : ShowOnly s (raise c s) := ⟨rfl, rfl, rfl, rfl, rfl, rfl, rfl, rfl, rfl⟩

/-- Wind-down entry replaces the sequencer's own part, and otherwise touches water and light alone. -/
theorem windDown_shape (kind : WinddownKind) (s : State) :
    windDown kind s = lightWinddown kind ((s.setSq (s.sq.windDown kind)).setWu (waterWinddown s).wu) := by
  unfold windDown
  rw [waterWinddown_frame, waterWinddown_sq]
  rfl

theorem windDown_showOnly (kind : WinddownKind) (s : State) : ShowOnly s (windDown kind s) := by
  rw [windDown_shape]; exact ⟨rfl, rfl, rfl, rfl, rfl, rfl, rfl, rfl, rfl⟩

@[simp] theorem windDown_sq (kind : WinddownKind) (s : State) : (windDown kind s).sq = s.sq.windDown kind := by
  rw [windDown_shape]; rfl

@[simp] theorem windDown_wu (kind : WinddownKind) (s : State) : (windDown kind s).wu = (waterWinddown s).wu := by
  rw [windDown_shape]; rfl

@[simp] theorem windDown_ru (kind : WinddownKind) (s : State) : (windDown kind s).ru = s.ru := by
  rw [windDown_shape]; rfl

/-- Every group goes to its safe level, without a binding. -/
theorem windDown_lu (kind : WinddownKind) (s : State) :
    (windDown kind s).lu = s.lu.mapGroups fun g r =>
      (r.fadeTo (Colour.level (s.ls.table.safeLevel g)) (winddownFadeOf kind s.ls.table)).unbind := by
  rw [windDown_shape]; rfl

theorem takeFault_showOnly (cause : FaultCause) (s : State) : ShowOnly s (takeFault cause s) := by
  unfold takeFault
  have down : ShowOnly s (raise .fault (windDown .fault (fillRecord cause s))) :=
    ((ShowOnly.ofSq s _).trans (windDown_showOnly .fault (fillRecord cause s))).trans (ShowOnly.raised _ _)
  repeat' split
  all_goals first | exact down | exact ⟨rfl, rfl, rfl, rfl, rfl, rfl, rfl, rfl, rfl⟩

theorem handTransition_showOnly (e : Fin 8) (s : State) : ShowOnly s (handTransition e s) := by
  unfold handTransition
  dsimp only
  have r := ShowOnly.raised .interlock s
  split
  · rw [holdEntryMatched_frame]; exact r.trans (ShowOnly.ofSq _ _)
  · exact r.trans (takeFault_showOnly _ _)
  all_goals exact r

theorem transitions_showOnly (entries : Byte) (es : List (Fin 8)) (s : State) :
    ShowOnly s (es.foldl (fun (t : State) (e : Fin 8) => if entries.getLsbD e then handTransition e t else t) s) := by
  induction es generalizing s with
  | nil => exact ShowOnly.refl s
  | cons e es ih =>
    rw [List.foldl_cons]
    refine ShowOnly.trans ?_ (ih _)
    split
    · exact handTransition_showOnly e s
    · exact ShowOnly.refl s

theorem handTransitions_showOnly (entries : Byte) (s : State) : ShowOnly s (handTransitions entries s) :=
  transitions_showOnly entries _ s

theorem handHoldEnd_showOnly (before : Bool) (s : State) : ShowOnly s (handHoldEnd before s) := by
  unfold handHoldEnd; split
  · rw [noHoldEntryMatched_frame]; exact ShowOnly.ofSq _ _
  · exact ShowOnly.refl s

/-- An evaluation replaces the two sets, and otherwise changes only what its transitions hand on. -/
theorem takeSets_showOnly (matched latched moved : Byte) (s : State) :
    ShowOnly (s.setGu { s.gu with matched := matched, latched := latched }) (takeSets matched latched moved s) :=
  (handTransitions_showOnly moved _).trans (handHoldEnd_showOnly _ _)

/-! ## Cues -/

theorem settleHead_headOnly (r : CueRecord) (rest : List CueRecord) (s : State) :
    HeadOnly s (settleHead r rest s).state := by
  unfold settleHead
  repeat' split
  all_goals exact ⟨rfl, rfl, rfl, rfl, rfl, rfl, rfl, rfl, rfl⟩

theorem examineRecord_headOnly (r : CueRecord) (rest : List CueRecord) (s : State) :
    HeadOnly s (examineRecord r rest s).state := by
  have matching : HeadOnly s (sequenceMatch r s) := ⟨rfl, rfl, rfl, rfl, rfl, rfl, rfl, rfl, rfl⟩
  unfold examineRecord
  repeat' split
  · exact settleHead_headOnly r rest s
  · exact HeadOnly.refl s
  · exact matching.trans (settleHead_headOnly r rest _)
  · exact ⟨rfl, rfl, rfl, rfl, rfl, rfl, rfl, rfl, rfl⟩

/-- The examination of the head changes sequencer, fetch unit, the pending set and the count of meetings alone. -/
theorem examineRun_headOnly (rs : List CueRecord) (s : State) : HeadOnly s (examineRun rs s) := by
  induction rs generalizing s with
  | nil => exact HeadOnly.refl s
  | cons r rest ih =>
    have one := examineRecord_headOnly r rest s
    have met : ∀ t, HeadOnly t (countMeeting t) := fun _ => ⟨rfl, rfl, rfl, rfl, rfl, rfl, rfl, rfl, rfl⟩
    have divided : ∀ t, HeadOnly t (divideRun t) := fun _ => ⟨rfl, rfl, rfl, rfl, rfl, rfl, rfl, rfl, rfl⟩
    unfold examineRun
    dsimp only
    repeat' split
    · exact one
    · exact (one.trans (met _)).trans (divided _)
    · exact (one.trans (met _)).trans (ih _)
    · exact one.trans (ih _)

theorem examineHead_headOnly (s : State) : HeadOnly s (examineHead s) := by
  unfold examineHead; split
  · exact examineRun_headOnly _ s
  · exact HeadOnly.refl s

theorem retryHead_headOnly (s : State) : HeadOnly s (retryHead s) := by
  unfold retryHead; split
  · exact examineHead_headOnly s
  · exact HeadOnly.refl s

/-- A delivery changes sequencer, water, light and the pending set alone. -/
theorem deliver_showOnly (a : Action) (s : State) : ShowOnly s (deliver a s) := by
  unfold deliver
  split
  · exact ⟨rfl, rfl, rfl, rfl, rfl, rfl, rfl, rfl, rfl⟩
  · rw [wantClose_frame]; exact ShowOnly.ofWu _ _
  · exact ⟨rfl, rfl, rfl, rfl, rfl, rfl, rfl, rfl, rfl⟩
  · exact ⟨rfl, rfl, rfl, rfl, rfl, rfl, rfl, rfl, rfl⟩
  · rw [releaseFollow_frame]; exact ShowOnly.ofLu _ _
  · unfold releaseMark; dsimp only; split <;> exact ⟨rfl, rfl, rfl, rfl, rfl, rfl, rfl, rfl, rfl⟩
  · exact windDown_showOnly .normal s

theorem releaseDue_showOnly (es : List ReleaseEntry) (s : State) : ShowOnly s (releaseDue es s).state := by
  induction es generalizing s with
  | nil => exact ShowOnly.refl s
  | cons e rest ih =>
    have delivered : ShowOnly s (deliver e.action (takeEntry e rest s)) :=
      (ShowOnly.ofSq s _).trans (deliver_showOnly _ _)
    unfold releaseDue
    dsimp only
    split
    · split
      · exact delivered
      · exact delivered.trans (ih _)
    · exact ShowOnly.refl s

theorem resumeRun_headOnly (s : State) : HeadOnly s (resumeRun s) := by
  have cleared : ∀ x, HeadOnly s (s.setSq x) := fun _ => ⟨rfl, rfl, rfl, rfl, rfl, rfl, rfl, rfl, rfl⟩
  unfold resumeRun; split
  · exact (cleared _).trans (examineHead_headOnly _)
  · exact HeadOnly.refl s

theorem examineAfter_headOnly (r : Released) : HeadOnly r.state (examineAfter r) := by
  unfold examineAfter
  repeat' split
  · exact resumeRun_headOnly _
  · exact retryHead_headOnly _
  · exact HeadOnly.refl _

/-- After the releases, only the head may be examined and the show held. -/
theorem afterReleases_headOnly (r : Released) : HeadOnly r.state (afterReleases r) := by
  have hold : ∀ t, HeadOnly t (holdForHost t) := fun _ => ⟨rfl, rfl, rfl, rfl, rfl, rfl, rfl, rfl, rfl⟩
  unfold afterReleases
  repeat' split
  · exact HeadOnly.refl _
  · exact ((examineAfter_headOnly r).trans (hold _)).trans (resumeRun_headOnly _)
  · exact examineAfter_headOnly r

/-- An advance leaves guard unit, limit store, path unit, memory, queue and reset. -/
theorem advance_periodOnly (s : State) : PeriodOnly s (advance s) := by
  unfold advance
  split
  · exact (takeFault_showOnly _ s).toPeriod
  · have moved : PeriodOnly s (s.setSq { s.sq with position := s.sq.position + 1 }) := (ShowOnly.ofSq s _).toPeriod
    exact (moved.trans (releaseDue_showOnly _ _).toPeriod).trans (afterReleases_headOnly _).toPeriod

/-! ## Audio -/

theorem endWindow_musicOnly (c : Fin 4) (s : State) : MusicOnly s (endWindow c s) := by
  unfold endWindow; dsimp only; split <;> exact ⟨rfl, rfl, rfl, rfl, rfl, rfl, rfl, rfl, rfl, rfl, rfl⟩

theorem feedMonitor_musicOnly (samples : Vector Half 4) (c : Fin 4) (s : State) :
    MusicOnly s (feedMonitor samples c s) := by
  have fed : ∀ m, MusicOnly s (setMonitor c m s) := fun _ => ⟨rfl, rfl, rfl, rfl, rfl, rfl, rfl, rfl, rfl, rfl, rfl⟩
  unfold feedMonitor; dsimp only; split
  · exact (fed _).trans (endWindow_musicOnly c _)
  · exact MusicOnly.refl s

theorem feedMonitors_musicOnly (samples : Vector Half 4) (s : State) : MusicOnly s (feedMonitors samples s) :=
  (((feedMonitor_musicOnly samples 0 s).trans (feedMonitor_musicOnly samples 1 _)).trans
    (feedMonitor_musicOnly samples 2 _)).trans (feedMonitor_musicOnly samples 3 _)

theorem muteChannel_musicOnly (old new : BitVec 4) (c : Fin 4) (s : State) :
    MusicOnly s (muteChannel old new c s) := by
  unfold muteChannel; repeat' split
  all_goals exact ⟨rfl, rfl, rfl, rfl, rfl, rfl, rfl, rfl, rfl, rfl, rfl⟩

theorem takeMute_musicOnly (new : BitVec 4) (s : State) : MusicOnly s (takeMute new s) := by
  have replaced : MusicOnly s (s.setAu { s.au with muteSet := new }) := ⟨rfl, rfl, rfl, rfl, rfl, rfl, rfl, rfl, rfl, rfl, rfl⟩
  exact (((replaced.trans (muteChannel_musicOnly _ new 0 _)).trans (muteChannel_musicOnly _ new 1 _)).trans
    (muteChannel_musicOnly _ new 2 _)).trans (muteChannel_musicOnly _ new 3 _)

theorem starveLimitTest_showOnly (s : State) : ShowOnly s (starveLimitTest s) := by
  unfold starveLimitTest; split
  · exact takeFault_showOnly _ s
  · exact ShowOnly.refl s

theorem takeReport_periodOnly (o : PeriodOutcome) (s : State) : PeriodOnly s (takeReport o s) := by
  have sq : ∀ x, PeriodOnly s (s.setSq x) := fun x => (ShowOnly.ofSq s x).toPeriod
  unfold takeReport
  split
  · exact advance_periodOnly s
  · exact advance_periodOnly s
  · exact (sq _).trans (advance_periodOnly _)
  · exact (sq _).trans (advance_periodOnly _)
  · exact ⟨rfl, rfl, rfl, rfl, rfl, rfl⟩
  · exact (sq _).trans (starveLimitTest_showOnly _).toPeriod
  · exact PeriodOnly.refl s

/-- A frame period leaves guard unit, limit store, path unit, memory, queue and reset. -/
theorem playPeriod_periodOnly (s : State) : PeriodOnly s (playPeriod s) := by
  have taken : PeriodOnly s (takeFrame s) := by unfold takeFrame; split <;> exact ⟨rfl, rfl, rfl, rfl, rfl, rfl⟩
  have shifted : ∀ x t, PeriodOnly t (shiftOut x t) := fun _ _ => ⟨rfl, rfl, rfl, rfl, rfl, rfl⟩
  unfold playPeriod; split
  · exact ((taken.trans (takeReport_periodOnly _ _)).trans (shifted _ _)).trans (feedMonitors_musicOnly _ _).toPeriod
  · exact PeriodOnly.refl s

/-! ## Fetch -/

/-- The completion of a burst leaves water, light, guard unit, limit store, memory, queue and reset. -/
theorem completeBurst_fetchOnly (b : Burst) (s : State) : FetchOnly s (completeBurst b s) := by
  have freed : FetchOnly s (s.setPu { s.pu with port := .free }) := ⟨rfl, rfl, rfl, rfl, rfl, rfl, rfl⟩
  have fu : ∀ t x, FetchOnly t (State.setFu t x) := fun _ _ => ⟨rfl, rfl, rfl, rfl, rfl, rfl, rfl⟩
  have au : ∀ t x, FetchOnly t (State.setAu t x) := fun _ _ => ⟨rfl, rfl, rfl, rfl, rfl, rfl, rfl⟩
  have space : ∀ t c, FetchOnly t (raiseSpace c t) := by
    intro t c; unfold raiseSpace; split <;> exact ⟨rfl, rfl, rfl, rfl, rfl, rfl, rfl⟩
  unfold completeBurst
  dsimp only
  split
  · exact freed
  · split
    · unfold completeCue
      dsimp only
      split
      · exact ((freed.trans (fu _ _)).trans (space _ _)).trans (examineHead_headOnly _).toFetch
      · exact (freed.trans (fu _ _)).trans (space _ _)
    · unfold completeAudio
      dsimp only
      rw [primingTest_frame]
      exact (((freed.trans (fu _ _)).trans (au _ _)).trans (space _ _)).trans ⟨rfl, rfl, rfl, rfl, rfl, rfl, rfl⟩

/-! ## Completion tests and limit operations -/

/-- The completion test of wind-down leaves water, light, guard unit, limit store, memory, queue and reset. -/
theorem winddownTest_fetchOnly (s : State) : FetchOnly s (winddownTest s) := by
  unfold winddownTest; split <;> exact ⟨rfl, rfl, rfl, rfl, rfl, rfl, rfl⟩

/-- A completion changes the limit store and the pending set, and otherwise what the levels evaluation changes. -/
theorem finishOperation_showOnly (name : OpName) (result : CompletionResult) (s : State) :
    let t := finishOperation name result s
    t.fu = s.fu ∧ t.au = s.au ∧ t.pu = s.pu ∧ t.mem = s.mem ∧ t.pending = s.pending ∧ t.inReset = s.inReset ∧
    t.ls = { s.ls with
      operation := none
      lastCompletion := some { result := result, name := name }
      tableState := s.ls.table.state } := by
  unfold finishOperation evaluateLevels
  have h := takeSets_showOnly
  exact ⟨(h _ _ _ _).fu, (h _ _ _ _).au, (h _ _ _ _).pu, (h _ _ _ _).mem, (h _ _ _ _).pending, (h _ _ _ _).inReset,
    (h _ _ _ _).ls⟩

end Sys2Proof.Machine
end

