-- ==== Sys2Proof/Laws/Cues.lean ====
section
/-! SUPPORT. The release table: insertion keeps its order and adds the entries inserted. Runs of examined records: what ends
one, and what an advance that waits does to it. -/

namespace Sys2Proof.Machine

/-- The entries of a table stand in nondecreasing order of due position. -/
abbrev inOrder (table : List ReleaseEntry) : Prop := table.Pairwise (fun a b => a.due ≤ b.due)

theorem mem_insertEntry {e x : ReleaseEntry} {table : List ReleaseEntry} :
    x ∈ insertEntry e table ↔ x = e ∨ x ∈ table := by
  induction table with
  | nil => simp [insertEntry]
  | cons y ys ih =>
    unfold insertEntry
    split
    · simp only [List.mem_cons, ih]; tauto
    · simp only [List.mem_cons]

theorem length_insertEntry (e : ReleaseEntry) (table : List ReleaseEntry) :
    (insertEntry e table).length = table.length + 1 := by
  induction table with
  | nil => rfl
  | cons y ys ih =>
    unfold insertEntry
    split
    · rw [List.length_cons, ih, List.length_cons]
    · rfl

/-- Insertion puts an entry after every entry due at or below it (R58). -/
theorem insertEntry_split (e : ReleaseEntry) (table : List ReleaseEntry) :
    insertEntry e table =
      table.takeWhile (fun x => decide (x.due ≤ e.due)) ++ e :: table.dropWhile (fun x => decide (x.due ≤ e.due)) := by
  induction table with
  | nil => rfl
  | cons y ys ih =>
    unfold insertEntry
    by_cases h : y.due ≤ e.due
    · rw [if_pos h, ih]; simp [h]
    · rw [if_neg h]; simp [h]

theorem inOrder_insertEntry (e : ReleaseEntry) {table : List ReleaseEntry} (h : inOrder table) :
    inOrder (insertEntry e table) := by
  induction table with
  | nil => simp [insertEntry, inOrder]
  | cons y ys ih =>
    have tail := List.pairwise_cons.mp h
    unfold insertEntry
    by_cases c : y.due ≤ e.due
    · rw [if_pos c]
      refine List.pairwise_cons.mpr ⟨fun x hx => ?_, ih tail.2⟩
      rcases mem_insertEntry.mp hx with rfl | hx
      · exact c
      · exact tail.1 x hx
    · rw [if_neg c]
      have before : e.due ≤ y.due := by
        rw [BitVec.le_def] at c ⊢; omega
      refine List.pairwise_cons.mpr ⟨fun x hx => ?_, h⟩
      rcases List.mem_cons.mp hx with rfl | hx
      · exact before
      · have after := tail.1 x hx
        rw [BitVec.le_def] at before after ⊢; omega

theorem length_insertEntries (es table : List ReleaseEntry) :
    (insertEntries es table).length = table.length + es.length := by
  induction es generalizing table with
  | nil => rfl
  | cons e es ih =>
    have step : insertEntries (e :: es) table = insertEntries es (insertEntry e table) := rfl
    rw [step, ih, length_insertEntry, List.length_cons]; omega

theorem inOrder_insertEntries (es : List ReleaseEntry) {table : List ReleaseEntry} (h : inOrder table) :
    inOrder (insertEntries es table) := by
  induction es generalizing table with
  | nil => exact h
  | cons e es ih => exact ih (inOrder_insertEntry e h)

/-- A record is expanded only when the table has room for all its entries (R59). -/
theorem hasRoom_iff (s : State) (n : Nat) (h : s.sq.table.length ≤ Config.releaseCapacity) :
    hasRoom s n = true ↔ s.sq.table.length + n ≤ Config.releaseCapacity := by
  simp only [hasRoom, decide_eq_true_eq]; omega

/-- The examination of a list whose head is not accepted while cue fetching is blocked does nothing (R51). -/
theorem examineRun_blocked {s : State} (h : s.sq.headAccepted = false) (b : s.fu.cueBlocked = true)
    (rs : List CueRecord) : examineRun rs s = s := by
  cases rs with
  | nil => rfl
  | cons r rest => simp [examineRun, examineRecord, h, b]

/-- A head of another number than the expected one blocks the stream (R52). -/
theorem examineRun_break {r : CueRecord} {s : State} (h : s.sq.headAccepted = false) (b : s.fu.cueBlocked = false)
    (n : r.sequence ≠ s.fu.expectedSequence) (rest : List CueRecord) :
    examineRun (r :: rest) s = sequenceBreak r s := by simp [examineRun, examineRecord, h, b, n]

/-! ## Runs (R51) -/

/-- A run ends at a head that stays in the buffer. -/
theorem examineRun_stays {r : CueRecord} {rest : List CueRecord} {s : State}
    (h : (examineRecord r rest s).left = false) : examineRun (r :: rest) s = (examineRecord r rest s).state := by
  simp [examineRun, h]

/-- A run that meets no advance goes on with the next record. -/
theorem examineRun_goesOn {r : CueRecord} {rest : List CueRecord} {s : State}
    (h : (examineRecord r rest s).left = true) (m : runMeets rest (examineRecord r rest s).state = false) :
    examineRun (r :: rest) s = examineRun rest (examineRecord r rest s).state := by
  simp [examineRun, h, m]

/-- A run that meets an advance is divided there, or goes on, as the free value has it. -/
theorem examineRun_meets {r : CueRecord} {rest : List CueRecord} {s : State}
    (h : (examineRecord r rest s).left = true) (m : runMeets rest (examineRecord r rest s).state = true) :
    examineRun (r :: rest) s =
      if Config.advanceDivides (examineRecord r rest s).state.meetings then
        divideRun (countMeeting (examineRecord r rest s).state)
      else examineRun rest (countMeeting (examineRecord r rest s).state) := by
  simp [examineRun, h, m]

/-- With nothing behind the head there is no meeting. -/
@[simp] theorem runMeets_nil (s : State) : runMeets [] s = false := rfl

/-- A held show takes no advance. -/
theorem advanceWaits_held {s : State} (h : s.sq.state = .held) : advanceWaits s = false := by
  have still : periodAdvances s = false := by simp [periodAdvances, periodOutcome, h]
  unfold advanceWaits; split <;> simp [still]

/-- With no advance waiting a run meets none. -/
theorem runMeets_of_none {rest : List CueRecord} {s : State} (h : advanceWaits s = false) : runMeets rest s = false := by
  simp [runMeets, h]

/-- The examination of a record changes nothing that makes an advance wait. -/
theorem advanceWaits_examineRecord (r : CueRecord) (rest : List CueRecord) (s : State) :
    advanceWaits (examineRecord r rest s).state = advanceWaits s := by
  have settled : ∀ t, advanceWaits (settleHead r rest t).state = advanceWaits t := by
    intro t; unfold settleHead; repeat' split
    all_goals rfl
  unfold examineRecord
  repeat' split
  · exact settled s
  · rfl
  · exact settled _
  · rfl

/-- With no run divided there is none to resume. -/
theorem resumeRun_whole {s : State} (h : s.sq.runDivided = false) : resumeRun s = s := by simp [resumeRun, h]

theorem examineHead_resting {s : State} (h : s.sq.state.live = false) : examineHead s = s := by simp [examineHead, h]

end Sys2Proof.Machine
end

