-- ==== Sys2Proof/Laws/Flags.lean ====
section
/-! SUPPORT. The cause word, the arbiter, addresses in the window, the light groups under a map, and memory after a grant. -/

namespace Sys2Proof.Machine

/-- The top cause is in both sets, and no cause before it is (R185). -/
theorem topCause_some {x : ReportUnit} {k : Nat} (h : topCause x = some k) :
    k < 9 ∧ x.pending.getLsbD k = true ∧ x.enable.getLsbD k = true ∧
    ∀ j < k, x.pending.getLsbD j = false ∨ x.enable.getLsbD j = false := by
  unfold topCause at h
  have found := List.find?_range_eq_some.mp h
  simp only [BitVec.getLsbD_and, Bool.and_eq_true, List.mem_range] at found
  refine ⟨found.2.1, found.1.1, found.1.2, fun j hj => ?_⟩
  have none_ := found.2.2 j hj
  cases a : x.pending.getLsbD j <;> cases b : x.enable.getLsbD j <;> simp_all

/-- With no cause in both sets there is no top cause (R185). -/
theorem topCause_none {x : ReportUnit} (h : x.pending &&& x.enable = 0) : topCause x = none := by
  simp [topCause, h]

/-- A read of the cause word with no cause in both sets leaves the sets (R185). -/
theorem dropTopCause_none {x : ReportUnit} (h : x.pending &&& x.enable = 0) : dropTopCause x = x := by
  simp [dropTopCause, topCause_none h]

/-- Those an idle arbiter finds waiting are waiting (R173). -/
theorem claimStands_claimNow {contest claim : Claim} {s : State} (both : claimStands s contest = (claimStands s .both))
    (h : claimNow contest s = .due claim) : claimStands s claim = true := by
  cases w : s.pu.waiting <;> cases f : s.fu.fetchRequest <;> simp [claimNow, w, f] at h <;> subst h <;>
    simp [claimStands, w, f] at both ⊢
  exact both

/-- The arbiter is idle only when no one waits (R173). -/
theorem claimNow_idle {contest : Claim} {s : State} (h : claimNow contest s = .idle) :
    s.pu.waiting = [] ∧ s.fu.fetchRequest = false := by
  cases w : s.pu.waiting <;> cases f : s.fu.fetchRequest <;> simp_all [claimNow]

/-- Someone the arbiter finds never leaves it busy (R173). -/
theorem claimNow_ne_busy (contest : Claim) (s : State) : claimNow contest s ≠ .busy := by
  unfold claimNow; split <;> simp

/-- After an event the arbiter is busy exactly while the port is granted (R173). -/
theorem arbitrate_busy (s : State) : arbitrate s = .busy ↔ s.pu.port ≠ .free := by
  unfold arbitrate
  split
  · simp_all
  · simp_all
  · have n := claimNow_ne_busy
    split
    · simp_all
    · simp_all
    · split <;> simp_all

/-- After an event the arbiter is idle only when no one waits (R173). -/
theorem arbitrate_idle {s : State} (h : arbitrate s = .idle) : s.pu.waiting = [] ∧ s.fu.fetchRequest = false := by
  unfold arbitrate at h
  repeat' split at h
  all_goals first | exact claimNow_idle h | cases h

/-- After an event a grant is due only to those still waiting (R173, R174). -/
theorem arbitrate_due {claim : Claim} {s : State} (h : arbitrate s = .due claim) : claimStands s claim = true := by
  unfold arbitrate at h
  repeat' split at h
  all_goals first | exact claimStands_claimNow (by rfl) h | (cases h; assumption) | cases h

/-- The end of every event leaves the arbiter as those waiting have it (R173). -/
theorem settle_dueStands (s : State) : (match (settle s).pu.arbiter with
    | .due claim => claimStands (settle s) claim
    | .busy | .idle => true) = true := by
  rw [settle_arbiter]
  cases h : arbitrate (settleRequest (settleAttention s)) with
  | due claim => have stands := arbitrate_due h; cases claim <;> exact stands
  | busy => rfl
  | idle => rfl

/-- An address in the window of a base. -/
theorem inWindow_windowWord (base : BitVec 6) (offset : Nat) : inWindow base (windowWord base offset) = true := by
  unfold inWindow windowWord
  refine decide_eq_true (BitVec.eq_of_toNat_eq ?_)
  simp only [BitVec.extractLsb'_toNat, BitVec.toNat_append, BitVec.toNat_ofNat]
  rw [Nat.shiftLeft_eq, ← Nat.shiftLeft_eq, ← Nat.shiftLeft_add_eq_or_of_lt (Nat.mod_lt _ (by norm_num)),
    Nat.shiftLeft_eq, Nat.shiftRight_eq_div_pow]
  omega

/-- The window offset of an address in the window, for the offset of a word. -/
theorem windowOffset_windowWord (base : BitVec 6) {offset : Nat} (word : offset % 4 = 0) (within : offset < 1048576) :
    windowOffset (windowWord base offset) = offset := by
  unfold windowOffset windowWord
  simp only [BitVec.extractLsb'_toNat, BitVec.toNat_append, BitVec.toNat_ofNat, Nat.shiftRight_zero]
  rw [← Nat.shiftLeft_add_eq_or_of_lt (Nat.mod_lt _ (by norm_num)), Nat.shiftLeft_eq]
  omega

/-- A group of the light unit after a change to every group. -/
@[simp] theorem groups_mapGroups (x : LightUnit) (f : Fin 64 → LightGroup → LightGroup) (g : Fin 64) :
    (x.mapGroups f).groups[g] = f g x.groups[g] := getFin_tabulate _ g

/-- A group of the light unit after a change to one group. -/
theorem groups_setGroup (x : LightUnit) (g h : Fin 64) (r : LightGroup) :
    (x.setGroup g r).groups[h] = if h = g then r else x.groups[h] := by
  rw [LightUnit.setGroup, getFin_set]
  exact if_congr eq_comm rfl rfl

/-- Memory after a granted transaction keeps its canonical form. -/
theorem Memory.wf_memoryAfter {m : List Host.Cell} (h : Memory.wf m) (t : Transaction) : Memory.wf (memoryAfter m t) := by
  cases t with
  | write ws => exact Memory.wf_writeWords h ws
  | read r => exact h

/-- The grant of a port keeps memory in its canonical form. -/
theorem Memory.wf_grantPort {b : Bool} {s : State} (h : Memory.wf s.mem) : Memory.wf (grantPort b s).mem := by
  have fetch : (grantFetch s).mem = s.mem := by rw [grantFetch_frame]; rfl
  have waiting : ∀ n, Memory.wf (grantWaiting n s).mem := by
    intro n; unfold grantWaiting; split
    · exact h
    · exact Memory.wf_memoryAfter h _
  unfold grantPort grantClaim
  repeat' split
  all_goals first | exact h | exact waiting _ | (rw [fetch]; exact h)

/-- Memory has its canonical form at reset. -/
theorem Memory.wf_reset : Memory.wf State.reset.mem := Memory.wf_nil

end Sys2Proof.Machine
end

