-- ==== Sys2Proof/Laws/Links.lean ====
section
/-! SUPPORT. The lines: the lengths of the frames, the colour cells one by one, and the levels within a frame and at rest. -/

namespace Sys2Proof.Machine

/-! ## Lengths -/

@[simp] theorem length_bitsOfBytes (bytes : List Byte) : (bitsOfBytes bytes).length = 8 * bytes.length := by
  induction bytes with
  | nil => rfl
  | cons b rest ih =>
    rw [bitsOfBytes, List.flatMap_cons, List.length_append, ← bitsOfBytes, ih, List.length_cons]
    simp only [byteBits, List.length_map, List.length_range]; omega

theorem length_flatMap_const {α β : Type} {f : α → List β} {n : Nat} (h : ∀ x, (f x).length = n) (xs : List α) :
    (xs.flatMap f).length = n * xs.length := by
  induction xs with
  | nil => rfl
  | cons x rest ih => rw [List.flatMap_cons, List.length_append, h, ih, List.length_cons, Nat.mul_succ, Nat.add_comm]

/-- A field frame has 488 bits (R113). -/
theorem FieldFrame.length_bits (f : FieldFrame) : f.bits.length = 488 := by
  have banks := length_flatMap_const (f := fun b => wordBytesMsb (bankOf f.applied b)) (n := 4) (fun _ => rfl) (List.range 6)
  have speeds := length_flatMap_const (f := halfBytes) (n := 2) (fun _ => rfl) f.speeds.toList
  simp [FieldFrame.bits, fieldBody, banks, speeds, halfBytes]

/-- A colour frame has 2,088 bits (R150). -/
theorem ColourFrame.length_bits (f : ColourFrame) : f.bits.length = 2088 := by
  have slots := length_flatMap_const (f := Colour.bytes) (n := 4) (fun _ => rfl) f.outputs.toList
  simp [ColourFrame.bits, colourBody, slots, halfBytes]

/-! ## Colour cells (R151) -/

@[simp] theorem length_colourCells (before : Bool) (bits : List Bool) : (colourCells before bits).length = bits.length := by
  induction bits generalizing before with
  | nil => rfl
  | cons bit rest ih => simp only [colourCells, List.length_cons, ih]

/-- The first cell changes from the level before it, and again at its middle for a 1. -/
theorem colourCells_zero (before bit : Bool) (rest : List Bool) :
    (colourCells before (bit :: rest))[0]? = some (!before, !before != bit) := by
  cases bit <;> cases before <;> rfl

/-- A later cell changes from the level that the cell before it ended at, and again at its middle for a 1. -/
theorem colourCells_succ (before : Bool) (bits : List Bool) (n : Nat) (cell : Bool × Bool) (bit : Bool)
    (h : (colourCells before bits)[n]? = some cell) (b : bits[n + 1]? = some bit) :
    (colourCells before bits)[n + 1]? = some (!cell.2, !cell.2 != bit) := by
  induction n generalizing before bits with
  | zero =>
    match bits, b with
    | x :: y :: rest, b =>
      cases Option.some.inj h
      cases Option.some.inj b
      exact colourCells_zero _ _ rest
  | succ n ih =>
    match bits, b with
    | x :: rest, b => exact ih _ rest h b

/-! ## Levels -/

/-- CLD- is always the reverse of CLD+ (R151). -/
theorem ColourLink.levels_reverse (x : ColourLink) (half : Nat) : (x.levels half).2 = !(x.levels half).1 := by
  unfold ColourLink.levels ColourLink.restLevels
  repeat' split
  all_goals rfl

/-- After the frame's bits the pair rests (R151). -/
theorem ColourLink.levels_rest (f : ColourFrame) (before : Bool) {half : Nat} (h : 4176 ≤ half) :
    (ColourLink.frame f before).levels half = (true, false) := by
  have none : (colourCells before f.bits)[half / 2]? = none := by
    rw [List.getElem?_eq_none_iff, length_colourCells, ColourFrame.length_bits]; omega
  simp only [ColourLink.levels, none, ColourLink.restLevels]

/-- The levels within a cell of the frame (R151). -/
theorem ColourLink.levels_cell (f : ColourFrame) (before : Bool) {n : Nat} {cell : Bool × Bool}
    (h : (colourCells before f.bits)[n]? = some cell) :
    (ColourLink.frame f before).levels (2 * n) = (cell.1, !cell.1) ∧
    (ColourLink.frame f before).levels (2 * n + 1) = (cell.2, !cell.2) := by
  have even : 2 * n / 2 = n := by omega
  have odd : (2 * n + 1) / 2 = n := by omega
  simp [ColourLink.levels, even, odd, h, Nat.add_mod]

/-- The levels within one bit of a field frame (R114). -/
theorem FieldLink.levels_bit (f : FieldFrame) {n : Nat} {bit : Bool} (h : f.bits[n]? = some bit) :
    (FieldLink.frame f).levels (2 * n) = (false, bit) ∧ (FieldLink.frame f).levels (2 * n + 1) = (true, bit) := by
  have even : 2 * n / 2 = n := by omega
  have odd : (2 * n + 1) / 2 = n := by omega
  simp [FieldLink.levels, even, odd, h, clockLevel, Nat.add_mod]

/-- After the frame's bits FLCK and FLD rest high (R114). -/
theorem FieldLink.levels_rest (f : FieldFrame) {half : Nat} (h : 976 ≤ half) :
    (FieldLink.frame f).levels half = (true, true) := by
  have none : f.bits[half / 2]? = none := by
    rw [List.getElem?_eq_none_iff, FieldFrame.length_bits]; omega
  simp only [FieldLink.levels, none, FieldLink.restLevel]

end Sys2Proof.Machine
end

