-- ==== Sys2Proof/Laws/Water.lean ====
section
/-! SUPPORT. What the shared operations of the water unit do to images, speeds and the deferred-close set. -/

namespace Sys2Proof.Machine

/-! ## Headers and blocking pumps -/

/-- A header counts no more valves in an image than in a larger one. -/
theorem headerCount_mono (t : LimitTable) (p : Nat) {x y : BitVec 192}
    (h : ∀ v < 192, x.getLsbD v = true → y.getLsbD v = true) : headerCount t p x ≤ headerCount t p y := by
  unfold headerCount
  refine List.countP_mono_left fun v hv => ?_
  simp only [Bool.and_eq_true]
  exact fun k => ⟨h v (List.mem_range.mp hv) k.1, k.2⟩

/-- A valve has a blocking pump exactly when some pump above idle has it on a header short of open valves (R94). -/
theorem hasBlocking_iff (s : State) (v : Nat) :
    hasBlocking s v = true ↔
      ∃ p : Fin 16, aboveIdle s p = true ∧ s.ls.table.onHeader p v = true ∧ shortHeader s p = true := by
  simp [hasBlocking, blocks, and_assoc]

theorem aboveIdle_iff (s : State) (p : Fin 16) : aboveIdle s p = true ↔ s.ls.table.idleSpeed p < s.wu.output[p] := by
  simp [aboveIdle]

theorem shortHeader_iff (s : State) (p : Nat) :
    shortHeader s p = true ↔ headerCount s.ls.table p s.wu.wanted < s.ls.table.minOpen p := by
  simp [shortHeader]

/-! ## Opens and closes -/

theorem wantClose_closed {v : Nat} {s : State} (h : s.wu.wanted.getLsbD v = false) : wantClose v s = s := by
  simp [wantClose, h]

theorem wantClose_open {v : Nat} {s : State} (h : s.wu.wanted.getLsbD v = true) :
    wantClose v s = applyOrDefer v (wantedClosed v s) := by simp [wantClose, h]

theorem applyOrDefer_blocked {v : Nat} {s : State} (h : hasBlocking s v = true) :
    applyOrDefer v s = s.setWu { s.wu with deferred := bitInsert s.wu.deferred v } := by simp [applyOrDefer, h]

theorem applyOrDefer_free {v : Nat} {s : State} (h : hasBlocking s v = false) :
    applyOrDefer v s = s.setWu { s.wu with applied := bitErase s.wu.applied v } := by simp [applyOrDefer, h]

/-- A close leaves the speeds, the frame count and the line. -/
theorem wantClose_speeds (v : Nat) (s : State) :
    (wantClose v s).wu.commanded = s.wu.commanded ∧ (wantClose v s).wu.output = s.wu.output ∧
    (wantClose v s).wu.frameCount = s.wu.frameCount ∧ (wantClose v s).wu.link = s.wu.link := by
  unfold wantClose applyOrDefer wantedClosed
  repeat' split
  all_goals exact ⟨rfl, rfl, rfl, rfl⟩

/-- A close makes its valve wanted closed and leaves every other valve's wanted position. -/
theorem wantClose_wanted (v : Nat) (s : State) (w : Nat) :
    (wantClose v s).wu.wanted.getLsbD w = (s.wu.wanted.getLsbD w && decide (w ≠ v)) := by
  by_cases open_ : s.wu.wanted.getLsbD v = true
  · have same : (wantClose v s).wu.wanted = bitErase s.wu.wanted v := by
      rw [wantClose_open open_]; unfold applyOrDefer; split <;> rfl
    rw [same, getLsbD_bitErase, ← decide_not]
    simp only [ne_eq, eq_comm]
  · have closed : s.wu.wanted.getLsbD v = false := by simpa using open_
    rw [wantClose_closed closed]
    by_cases e : w = v
    · subst e; simp [closed]
    · simp [e]

/-- A run of closes leaves the speeds, the frame count and the line. -/
theorem closes_speeds (vs : List Nat) (s : State) :
    let t := vs.foldl (fun s v => wantClose v s) s
    t.wu.commanded = s.wu.commanded ∧ t.wu.output = s.wu.output ∧ t.wu.frameCount = s.wu.frameCount ∧
    t.wu.link = s.wu.link := by
  induction vs generalizing s with
  | nil => exact ⟨rfl, rfl, rfl, rfl⟩
  | cons v vs ih =>
    have a := wantClose_speeds v s
    have b := ih (wantClose v s)
    dsimp only at b ⊢
    rw [List.foldl_cons]
    exact ⟨b.1.trans a.1, b.2.1.trans a.2.1, b.2.2.1.trans a.2.2.1, b.2.2.2.trans a.2.2.2⟩

/-- A run of closes leaves wanted open exactly the valves it does not name. -/
theorem closes_wanted (vs : List Nat) (s : State) (w : Nat) :
    (vs.foldl (fun s v => wantClose v s) s).wu.wanted.getLsbD w = (s.wu.wanted.getLsbD w && decide (w ∉ vs)) := by
  induction vs generalizing s with
  | nil => simp
  | cons v vs ih =>
    rw [List.foldl_cons, ih, wantClose_wanted v s w]
    by_cases a : w = v <;> by_cases b : w ∈ vs <;> simp [a, b]

/-! ## Wind-down entry -/

/-- At wind-down entry every valve is wanted closed, every pump is commanded to 0, and no output moves (R110). -/
theorem waterWinddown_spec (s : State) :
    (waterWinddown s).wu.wanted = 0 ∧ (waterWinddown s).wu.commanded = Vector.replicate 16 0 ∧
    (waterWinddown s).wu.output = s.wu.output ∧ (waterWinddown s).wu.frameCount = s.wu.frameCount ∧
    (waterWinddown s).wu.link = s.wu.link := by
  have speeds := closes_speeds (List.range 192) (s.setWu { s.wu with commanded := Vector.replicate 16 0 })
  dsimp only at speeds
  refine ⟨?_, speeds.1, speeds.2.1, speeds.2.2.1, speeds.2.2.2⟩
  refine BitVec.eq_of_getLsbD_eq fun w h => ?_
  have gone := closes_wanted (List.range 192) (s.setWu { s.wu with commanded := Vector.replicate 16 0 }) w
  unfold waterWinddown
  rw [gone]
  simp [h]

/-! ## Ramps -/

/-- A ramp step never passes above the greater of where it starts and its target. -/
theorem rampStep_le (output target up down : Nat) : rampStep output target up down ≤ max output target := by
  unfold rampStep; split
  · omega
  · split <;> omega

/-- An output at or below a bound, with a target at or below it, stays at or below it. -/
theorem rampStep_bound {output target bound : Nat} (up down : Nat) (a : output ≤ bound) (b : target ≤ bound) :
    rampStep output target up down ≤ bound :=
  (rampStep_le output target up down).trans (max_le a b)

/-- An output at its target stays there. -/
theorem rampStep_self (target up down : Nat) : rampStep target target up down = target := by simp [rampStep]

/-- The effective cap is none of its four terms exceeded (R101). -/
theorem effectiveCap_le (s : State) (p : Nat) :
    effectiveCap s p ≤ s.ls.table.maxSpeed p ∧ effectiveCap s p ≤ windCapOf s p ∧ effectiveCap s p ≤ derateTerm s ∧
    effectiveCap s p ≤ deadheadCap s p := by
  unfold effectiveCap; omega

/-- While its wanted open count is below min-open, a pump's target is at most its idle speed (R102). -/
theorem pumpTarget_short {s : State} {p : Fin 16} (h : shortHeader s p = true) :
    pumpTarget s p ≤ s.ls.table.idleSpeed p := by
  have := effectiveCap_le s p
  have cap : deadheadCap s p = s.ls.table.idleSpeed p := by simp [deadheadCap, h]
  unfold pumpTarget; omega

/-! ## Rest -/

theorem waterAtRest_iff (s : State) :
    waterAtRest s = true ↔ s.wu.applied = 0 ∧ ∀ p : Fin 16, s.wu.output[p] = 0 := by
  simp [waterAtRest]

end Sys2Proof.Machine
end

