-- ==== Sys2Proof/Tests/Slice0.lean ====
section
/-! SUPPORT. Tests: ill-formed commands, the manual's check values and worked examples on single steps, and, for every statement
with hypotheses, a state that meets them. -/

namespace Sys2Proof.Tests

open Sys2Proof Sys2Proof.Machine

-- One test at a time: many kernel evaluations waiting for one another would each hold a thread and its stack.
set_option Elab.async false

/-! ## Ill-formed commands, one for each check -/

theorem test_unknown_show_code_excludes_codes :
    WellFormed (.showCmdUnknownCode 1 false) = false ∧ WellFormed (.showCmdUnknownCode 13 false) = false ∧
    WellFormed (.showCmdUnknownCode 0 false) = true ∧ WellFormed (.showCmdUnknownCode 14 false) = true := by decide

theorem test_partial_write_is_partial :
    WellFormed (.showCmdPartialWrite 1 15 false) = false ∧ WellFormed (.showCmdPartialWrite 1 0 false) = false ∧
    WellFormed (.showCmdPartialWrite 1 7 false) = true := by decide

theorem test_unknown_limit_code_excludes_lawful_words :
    WellFormed (.limitCmdUnknownCode 0x1F01 true false) = false ∧ WellFormed (.limitCmdUnknownCode 0xFF02 true false) = false ∧
    WellFormed (.limitCmdUnknownCode 3 true false) = false ∧ WellFormed (.limitCmdUnknownCode 4 true false) = false ∧
    WellFormed (.limitCmdUnknownCode 0x2001 true false) = true ∧ WellFormed (.limitCmdUnknownCode 5 true false) = true := by
  decide

/-- A read that arrives at the part, with no other requester. -/
def arrives (r : BusRead) : Instr := .arbiterGrant { arriving := some r, fetchFirst := false }

/-- A grant with no read arriving. -/
def grant (fetchFirst : Bool) : Instr := .arbiterGrant { arriving := none, fetchFirst := fetchFirst }

theorem test_arriving_read_is_formed :
    WellFormed (arrives { address := 5, enables := 0xFFFF, burst := true }) = false ∧
    WellFormed (arrives { address := 4, enables := 0xFFFF, burst := true }) = true ∧
    WellFormed (arrives { address := 5, enables := 0x1F, burst := false }) = false ∧
    WellFormed (arrives { address := 5, enables := 0xF, burst := false }) = true ∧ WellFormed (grant true) = true := by decide

theorem test_cause_read_is_formed :
    WellFormed (.causeWordRead { enables := 0x10, burst := false }) = false ∧
    WellFormed (.causeWordRead { enables := 0x10, burst := true }) = true := by decide

theorem test_no_word_spells_a_command : decodeTableWord 32 1 = none := rfl

/-! ## Check values and formats (R189, section 11.5) -/

/-- The nine digits "123456789". -/
def digits : List Byte := [0x31, 0x32, 0x33, 0x34, 0x35, 0x36, 0x37, 0x38, 0x39]

theorem test_crc32_check_value : crc32 digits = 0xCBF43926 := by decide +kernel

theorem test_crc16_check_value : crc16 digits = 0x29B1 := by decide +kernel

theorem test_bitwise_check_values :
    crc32Bits (digits.flatMap lsbFirst) = 0xCBF43926 ∧ crc16Bits (digits.flatMap (fun b => msbFirst 8 b.toNat)) = 0x29B1 := by
  decide +kernel

theorem test_field_frame_is_488_bits :
    (FieldFrame.compose 7 0 (Vector.replicate 16 0)).bits.length = 488 ∧
    (FieldFrame.compose 7 0 (Vector.replicate 16 0)).bits.take 8 = [true, true, true, true, false, true, false, true] := by
  decide +kernel

theorem test_colour_frame_is_2088_bits :
    (ColourFrame.compose 7 (Vector.replicate 64 Colour.black)).bits.length = 2088 := by decide +kernel

theorem test_colour_cells_change_at_every_start :
    colourCells true [true, false, true] = [(false, true), (false, false), (true, false)] := by decide

/-- A sync word begins 0xC3: from rest CLD+ falls at its first cell, after reset it rises there; both change at the middle. -/
theorem test_colour_levels_begin_from_the_line :
    let dark := ColourFrame.compose 0 (Vector.replicate 64 Colour.black)
    (List.range 6).map (fun k => ((ColourLink.frame dark true).levels k).1) = [false, true, false, true, false, false] ∧
    (List.range 6).map (fun k => ((ColourLink.frame dark false).levels k).1) = [true, false, true, false, true, true] ∧
    (ColourLink.frame dark false).levels 0 = (true, false) ∧ (ColourLink.frame dark false).levels 4176 = (true, false) ∧
    ColourLink.heldReverse.levels 0 = (false, true) := by decide +kernel

theorem test_field_levels :
    let still := FieldLink.frame (FieldFrame.compose 0 0 (Vector.replicate 16 0))
    still.levels 0 = (false, true) ∧ still.levels 1 = (true, true) ∧ still.levels 8 = (false, false) ∧
    still.levels 976 = (true, true) ∧ FieldLink.heldLow.levels 3 = (false, false) := by decide +kernel

/-- Held low; ABCK alone running before the first frame; and a frame whose channel 0 has its top bit set and channel 3 its
lowest. -/
theorem test_audio_levels :
    AudioLines.heldLow.levels 1 = AudioLevels.low ∧
    AudioLines.waiting.levels 0 = AudioLevels.low ∧ AudioLines.waiting.levels 63 = { AudioLevels.low with abck := true } ∧
    (AudioLines.shifting #v[0x8000, 0, 0, 1] true).levels 0 = { AudioLevels.low with ad0 := true } ∧
    (AudioLines.shifting #v[0x8000, 0, 0, 1] true).levels 63 = { abck := true, afck := true, ad0 := false, ad1 := true } := by
  decide +kernel

/-! ## States -/

/-- The part out of reset, everything at its reset value. -/
def awake : State := { State.reset with inReset := false }

/-- The part out of reset with its table held VALID. -/
def ready : State := awake.setLs { LimitStore.reset with tableState := .valid }

/-- The part in a show state. -/
def inShow (x : ShowState) : State := setShow x ready

/-- One frame, of sample 5 on channel 0. -/
def oneFrame : Frame := { word0 := 5, word1 := 0 }

/-- A playing show with a number of frames in the FIFO. -/
def playing (frames : Nat) : State :=
  (inShow .running).setAu { AudioUnit.reset with clock := some .r48000, fifo := List.replicate frames oneFrame }

/-- The state with three argument words. -/
def withArgs (a b c : Word) (s : State) : State := s.setRu { s.ru with arg0 := a, arg1 := b, arg2 := c }

/-- The state with a release table. -/
def withTable (table : List ReleaseEntry) (s : State) : State := s.setSq { s.sq with table := table }

/-- A release entry due at a position. -/
def entry (due : Word) (a : Action) : ReleaseEntry := { due := due, action := a, source := 9, late := false }

/-- A cue record: word 0 and three words more. -/
def record (w0 w1 w2 w3 : Word) : CueRecord := { word0 := w0, word1 := w1, word2 := w2, word3 := w3 }

/-- A property of the state a command answers. -/
def after (c : Instr) (s : State) (p : State → Bool) : Bool :=
  match exec c s with
  | .next t => p t
  | .fault _ | .refused _ => false

/-! ## Single steps -/

theorem test_start_from_reset_is_refused :
    after (.start false) State.reset (fun t => decide (t.ru.outcome = .none ∧ t.sq.state = .idle)) = true := by
  decide +kernel

theorem test_start_primes :
    after (.start false) (withArgs 2 1000 1 ready)
      (fun t => decide (t.sq.state = .priming ∧ t.sq.position = 1000 ∧ t.sq.rate = .r48000 ∧ t.au.clock = some .r48000 ∧
        t.ru.outcome = .accepted)) = true := by decide +kernel

theorem test_start_without_a_valid_table :
    after (.start false) awake (fun t => decide (t.ru.outcome = .refusedLimits ∧ t.ru.code = 1)) = true := by
  decide +kernel

theorem test_stop_winds_down :
    after (.stop false) (withTable [entry 5 .endShow] (inShow .held))
      (fun t => decide (t.sq.state = .winddown ∧ t.sq.discardedCount = 1 ∧ t.sq.table = [])) = true := by decide +kernel

theorem test_hold_at_mark :
    after (.hold false) (withArgs 0 0 0 (inShow .starved))
      (fun t => decide (t.sq.state = .starved ∧ t.sq.holdPending = .atMark)) = true := by decide +kernel

theorem test_mark_takes_the_hold :
    after .framePeriod (withTable [entry 1 (.mark 7 true)]
      ((playing 1).setSq { (playing 1).sq with holdPending := .atMark }))
      (fun t => decide (t.sq.state = .held ∧ t.sq.holdHost = true ∧ t.sq.lastMark = some { number := 7, position := 1 } ∧
        t.ru.pending = 0x80)) = true := by decide +kernel

theorem test_last_frame_then_starved :
    after .framePeriod (playing 0) (fun t => decide (t.sq.state = .starved ∧ t.au.underflowCount = 1 ∧ t.sq.position = 0)) =
      true := by decide +kernel

theorem test_position_limit :
    after .framePeriod ((playing 2).setSq { (playing 2).sq with position := 0xFFFFFFFF })
      (fun t => decide (t.sq.state = .winddown ∧ t.sq.kind = .fault ∧ t.sq.position = 0xFFFFFFFF ∧ t.au.fifo.length = 1)) =
      true := by decide +kernel

/-- The cue example of section 3.9: valve 37, led by 288,000 frames, is due before the position and so late. -/
theorem test_due_positions :
    dueAfterLead 1100000 288000 = 812000 ∧ dueAfterLead 5 10 = 0 ∧ dueAfterLag 0xFFFFFFFE 48000 = 0xFFFFFFFF ∧
    framesOf 48000 2500 = 120000 ∧ framesOf 44100 5 = 220 := by decide +kernel

theorem test_valves_record_expands_in_order :
    (record 0x00020100 0 0x22 0x02 : CueRecord).actions = some [.valve 65 true, .valve 69 false] := by decide +kernel

theorem test_end_of_ring_example :
    after (.audioMarkWrite 0x80000002 false) (ready.setFu { FetchUnit.reset with audioMark := 114680, audioFetch := 114680 })
      (fun t => decide (t.fu.audioMark = 2 ∧ t.fu.final = true ∧ audioPublished t.fu = 10 ∧ audioFree t.fu = 114677)) =
      true := by decide +kernel

theorem test_mark_fault :
    after (.cueMarkWrite 4096 false) awake (fun t => decide (t.fu.markFault = true ∧ t.fu.cueMark = 0 ∧ t.ru.pending = 8)) =
      true := by decide +kernel

/-- The fade of section 7.9, red from 200 to 0 and green from 100 to 180 in three periods. -/
theorem test_fade_example :
    fadeComponent 3 200 0 = 133 ∧ fadeComponent 2 133 0 = 66 ∧ fadeComponent 1 66 0 = 0 ∧
    fadeComponent 3 100 180 = 127 ∧ fadeComponent 2 127 180 = 154 ∧ fadeComponent 1 154 180 = 180 := by decide +kernel

/-- The follower of section 4.10: white 200 under a scale of 20,000, of 14,500 and of 0. -/
theorem test_follow_scale_example :
    scaleComponent 20000 200 = 122 ∧ scaleComponent 14500 200 = 88 ∧ scaleComponent 0 200 = 0 := by decide +kernel

theorem test_magnitude_of_the_lowest_sample : magnitude 0x8000 = 32767 ∧ magnitude 0xFFFF = 1 := by decide +kernel

/-- Pump 4 of section 5.10 falling from 800 to its idle speed of 150, and one rising to its target. -/
theorem test_ramp_example :
    rampStep 800 150 40 100 = 700 ∧ rampStep 200 150 40 100 = 150 ∧ rampStep 780 800 40 100 = 800 := by decide

theorem test_field_period_sends_a_frame :
    after .fieldPeriod awake (fun t => decide (t.wu.frameCount = 1 ∧ t.wu.link.restLevel = true)) = true := by
  decide +kernel

theorem test_winddown_completes :
    after .winddownCompletion
      ((inShow .winddown).setSq { (inShow .winddown).sq with kind := .fault, colourTaken := true })
      (fun t => decide (t.sq.state = .tripped ∧ t.au.clock = none ∧ t.wu.frameCount = 1 ∧ t.lu.frameCount = 0)) = true := by
  decide +kernel

/-- With no colour period taken since entry, the wind-down completes in a colour period. -/
theorem test_winddown_completes_in_a_colour_period :
    after .winddownCompletion (inShow .winddown)
      (fun t => decide (t.sq.state = .idle ∧ t.wu.frameCount = 0 ∧ t.lu.frameCount = 1)) = true := by decide +kernel

/-- The cause word with FAULT the highest of five causes pending and four enabled. -/
def calling : State := ready.setRu { ReportUnit.reset with pending := 0x57, enable := 0xD3, attention := true }

theorem test_cause_word_example :
    after (.causeWordRead { enables := 1, burst := false }) calling
      (fun t => decide (t.pu.readData = [1] ∧ t.ru.pending = 0x56 ∧ t.ru.attention = true)) = true := by decide +kernel

/-- A burst read of the place of the cause word, as any arriving read, shows the sets as they stood and removes the cause. -/
theorem test_arriving_read_of_the_cause_word :
    after (arrives { address := windowWord 0 0x1140, enables := 0, burst := true }) calling
      (fun t => decide (t.pu.readData = [0x00D30057, 1, 0, 0] ∧ t.ru.pending = 0x56 ∧ t.pu.port = .free)) = true := by
  decide +kernel

theorem test_forwarded_read_keeps_its_enables :
    let r : BusRead := { address := windowWord 0 0x4000, enables := 6, burst := false }
    after (arrives r) ready (fun t => decide (t.pu.port = .processor (.read r))) = true := by decide +kernel

/-- The ninth grant of section 9.8, with both waiting as the port becomes free: the count is full and the fetch unit is
granted. -/
theorem test_starved_fetch_is_granted :
    let word : BusWord := { address := 3, data := 1, enables := 15, refused := false }
    after (grant false)
      (((inShow .priming).setFu { FetchUnit.reset with audioMark := 2, fetchRequest := true }).setPu
        { PathUnit.reset with waitCount := 8, waiting := [.write [word]], arbiter := .due .both })
      (fun t => decide (t.pu.waitCount = 0 ∧ t.mem = [] ∧ t.pu.arbiter = .busy)) = true := by decide +kernel

/-- A mark write at a free port raises the fetch request in the event that posts it: the two arrive together, either is
granted at once, and nothing is counted (R173). -/
theorem test_together_at_a_free_port :
    after (.audioMarkWrite 2 false) (inShow .held)
      (fun u => decide (u.pu.arbiter = .due .together) &&
        after (grant false) u (fun t => decide (t.pu.waitCount = 0 ∧ t.pu.port.fetching = false ∧ t.pu.waiting = [])) &&
        after (grant true) u (fun t => decide (t.pu.port.fetching = true ∧ t.pu.waiting.length = 1))) = true := by
  decide +kernel

theorem test_posted_write_reaches_memory :
    let word : BusWord := { address := 3, data := 0x00AB00CD, enables := 5, refused := false }
    after (grant false)
      (ready.setPu { PathUnit.reset with waiting := [.write [word]], arbiter := .due .processor })
      (fun t => decide (t.mem = [(12, 0xCD), (14, 0xAB)] ∧ t.pu.port = .processor (.write [word]))) = true := by
  decide +kernel

/-- A burst of which a word came before the release passes undecided to its end, even into the status page (R175). -/
theorem test_burst_presented_before_release :
    let s := awake.setPu { PathUnit.reset with
      carried := true
      assembling := [{ address := windowWord 0 0x1008, data := 1, enables := 15, refused := false }] }
    after (.processorWrite { address := windowWord 0 0x100C, data := 1, enables := 15, burst := true } false) s
      (fun t => decide (t.pu.refusedCount = 0 ∧ t.pu.carried = false ∧ t.pu.waiting.length = 1)) = true := by decide +kernel

theorem test_status_page_write_is_refused :
    after (.processorWrite { address := 0x400, data := 1, enables := 1, burst := false } false) awake
      (fun t => decide (t.pu.refusedCount = 1 ∧ t.pu.lastRefused = 0x1000 ∧ t.pu.waiting = [] ∧ t.ru.pending = 0x20)) =
      true := by decide +kernel

theorem test_blank_table_after_erase :
    LimitTable.erased.byte 2047 = 0xFF ∧ LimitTable.erased.byte 2048 = 0 := by decide +kernel

theorem test_program_row_needs_marks :
    after (.programRow 3 0 true false) ready (fun t => decide (t.ls.outcome = .refusedStaging)) = true ∧
    after (.programRow 3 0 true false) (ready.setLs { ready.ls with marks := 0xFFFF })
      (fun t => decide (t.ls.outcome = .accepted ∧ t.ls.programming = true)) = true := by decide +kernel

theorem test_wind_example :
    let t := LimitTable.erased
    raisedBand t 0 65535 = some 3 ∧ raisedBand t 3 65535 = none := by decide +kernel

theorem test_limit_view_lock_byte :
    limitViewWord { LimitStore.reset with locked := true } 2048 = 0 ∧ limitViewWord LimitStore.reset 2048 = 0xFF := by
  decide +kernel

/-! ## The beam and the button of section 6.5 -/

/-- A row of zeros but for two bytes. -/
def rowWith (i : Nat) (v : Byte) (j : Nat) (w : Byte) : Row :=
  tabulate fun k : Fin 64 => if k.val = i then v else if k.val = j then w else 0

/-- The table of section 6.5 as far as its interlock entries go: entry 0 is SENSE3 low, HOLD, and entry 2 SENSE7 falling, TRIP,
its action code added below. -/
def beamTable : LimitTable :=
  ((LimitTable.erased.setRow 21 ((rowWith 1 0x10 35 0x40).set 41 3)).setRow 22 (rowWith 0 0 0 0)).setRow 23
    (rowWith 0 0 0 0)

/-- A running show with both inputs high but for the raw level of one, whose timer runs. -/
def edgeAt (input : Fin 16) : State :=
  let s := (inShow .running).setLs { LimitStore.reset with table := beamTable, tableState := .valid }
  s.setGu { GuardUnit.reset with
    raw := bitErase 0x88 input, debounced := 0x88, timers := s.gu.timers.set input.val (some 20) input.isLt }

theorem test_broken_beam_holds :
    after (.debounceTimerExpiry 3) (edgeAt 3)
      (fun t => decide (t.sq.state = .held ∧ t.sq.holdInterlock = true ∧ t.sq.holdHost = false ∧ t.gu.matched = 1 ∧
        t.gu.latched = 0 ∧ t.ru.pending = 2)) = true := by decide +kernel

theorem test_pressed_button_trips :
    after (.debounceTimerExpiry 7) (edgeAt 7)
      (fun t => decide (t.sq.state = .winddown ∧ t.sq.kind = .fault ∧ t.gu.matched = 4 ∧ t.gu.latched = 4 ∧
        t.sq.faultRecord.first = some (.interlockTrip 2) ∧ t.ru.pending = 3)) = true := by decide +kernel

/-! ## The shared header of section 5.10 -/

/-- The pumps 4 and 5 of section 5.10 and their headers; the other pumps stand still. -/
def headerTable : LimitTable :=
  let pumps : Row := tabulate fun k : Fin 64 =>
    match k.val with
    | 1 => 3 | 2 => 150 | 4 => 0x84 | 5 => 0x03 | 6 => 40 | 8 => 100 | 10 => 250
    | 17 => 1 | 18 => 100 | 20 => 0x58 | 21 => 0x02 | 22 => 20 | 24 => 25 | 26 => 200 | _ => 0
  ((LimitTable.erased.setRow 1 pumps).setRow 5 (rowWith 40 0x3F 40 0x3F)).setRow 6 (rowWith 0 0xC4 0 0xC4)

/-- The show before the closes. -/
def beforeCloses : State :=
  let s := (inShow .running).setLs { LimitStore.reset with table := headerTable, tableState := .valid }
  let speeds : Vector Nat 16 := tabulate fun p => if p = 4 then 800 else if p = 5 then 300 else 0
  let valves := bitsOf 192 fun v => decide (v = 64 ∨ v = 65 ∨ v = 66 ∨ v = 67 ∨ v = 70)
  s.setWu { WaterUnit.reset with wanted := valves, applied := valves, commanded := speeds, output := speeds }

theorem test_closes_of_the_shared_header :
    let t := wantClose 67 (wantClose 66 (wantClose 65 beforeCloses))
    t.wu.deferred = bitsOf 192 (fun v => decide (v = 66 ∨ v = 67)) ∧
    t.wu.applied = bitsOf 192 (fun v => decide (v = 64 ∨ v = 66 ∨ v = 67 ∨ v = 70)) ∧
    pumpTarget t 4 = 150 ∧ pumpTarget t 5 = 300 := by decide +kernel

/-! ## Witnesses: for every statement with hypotheses, states that meet them, one for each clause -/

/-- A word on its way to memory. -/
def oneWord : BusWord := { address := 3, data := 1, enables := 15, refused := false }

/-- A write at a window offset, with some byte enables. -/
def writeAt (offset : Nat) (enables : BitVec 4) : BusWrite :=
  { address := windowWord 0 offset, data := 1, enables := enables, burst := false }

/-- A show whose fetch unit asks for an audio read. -/
def asking : State := (inShow .priming).setFu { FetchUnit.reset with audioMark := 2, fetchRequest := true }

/-- A show whose fetch unit has a published cue slot and a burst of some kind on the port. -/
def bursting (b : Burst) (buffer : List CueRecord) : State :=
  ((inShow .held).setFu { FetchUnit.reset with cueMark := 1, audioMark := 2, cueBuffer := buffer }).setPu
    { PathUnit.reset with port := .fetch b }

/-- The sequencer of a state changed. -/
def withSq (f : Sequencer → Sequencer) (s : State) : State := s.setSq (f s.sq)

/-- Cue records of each kind that are no cue error, each at the end of a range R49 gives. -/
def lawfulRecords : List CueRecord :=
  [record 0x00050100 0 1 0, record 0x000F0200 0 1000 0, record 0x003F0300 0 0 0x00010000, record 0x003F0400 0 3 0,
   record 0x003F0400 0 255 0, record 0xFFFF1500 0 0 0, record 0x00000600 0 0 0]

/-- Cue records that are cue errors, one for each line of R49. -/
def unlawfulRecords : List CueRecord :=
  [record 0x00000000 0 0 0, record 0x00000700 0 0 0, record 0x00060100 0 1 0, record 0x00050100 0 0 0,
   record 0x00100200 0 0 0, record 0x000F0200 0 1001 0, record 0x00400300 0 0 0x00010000, record 0x003F0300 0 0 0,
   record 0x003F0300 0 0 0x00020000, record 0x00400400 0 3 0, record 0x003F0400 0 4 0]

theorem test_witness_StepTakesFrontCommand :
    (ready.setPending [.stop false]).pending = .stop false :: [] ∧ ready.pending = [] := by decide

theorem test_witness_RowsAreBusWrites :
    busWriteOf State.reset.pu.base (.start false) = some (fullWrite 0 0 1 false, false) ∧
    busWriteOf State.reset.pu.base (.programRow 31 7 true false) =
      some (fullWrite 0 0x80 0x00071F01 false, true) := by decide

theorem test_witness_ForwardedWordIsPosted :
    State.reset.inReset = true ∧ (writeAt 0 0).enables = 0 ∧
    inWindow 1 (writeAt 0 15).address = false ∧
    0x04040 ≤ windowOffset (writeAt 0x04040 15).address ∧
    protectedOffset awake.fu (windowOffset (writeAt 0x04040 15).address) = false ∧
    protectedOffset awake.fu (windowOffset (writeAt 0xFFFFC 15).address) = false ∧
    (∀ offset ∈ [0x010, 0x03C, 0x048, 0x084, 0x0C8, 0xFFC], windowOffset (writeAt offset 15).address = offset) ∧
    (awake.setPu { PathUnit.reset with carried := true, assembling := [oneWord] }).pu.carried = true := by decide +kernel

theorem test_witness_RefusedWordIsCounted :
    PathDecides true awake ∧ (writeAt 0x01000 1).enables ≠ 0 ∧ inWindow awake.pu.base (writeAt 0x01000 1).address = true ∧
    windowOffset (writeAt 0x01000 1).address = 0x01000 ∧ windowOffset (writeAt 0x03FFC 8).address = 0x03FFC ∧
    protectedOffset asking.fu (windowOffset (writeAt 0x20000 1).address) = true ∧
    protectedOffset asking.fu (windowOffset (writeAt 0x2000C 1).address) = true ∧
    protectedOffset asking.fu (windowOffset (writeAt 0x20010 1).address) = false := by decide +kernel

/-- A state whose arbiter has a grant due, with a write waiting and a wait count. -/
def dueTo (claim : Claim) (count : Fin 9) (s : State) : State :=
  s.setPu { PathUnit.reset with waiting := [.write [oneWord]], waitCount := count, arbiter := .due claim }

theorem test_witness_GrantFollowsTable :
    RequestSound ready ∧ ArbiterSound ready ∧ ready.pu.port = .free ∧ ready.pu.arbiter = .idle ∧ ready.pu.waiting = [] ∧
    ready.fu.fetchRequest = false ∧ RequestSound (dueTo .processor 0 ready) ∧ RequestSound asking ∧
    asking.fu.fetchRequest = true ∧ RequestSound (asking.setPu { PathUnit.reset with arbiter := .due .fetch }) ∧
    RequestSound (dueTo .both 7 asking) ∧ RequestSound (dueTo .both 8 asking) ∧
    RequestSound (dueTo .together 0 asking) ∧ (dueTo .together 0 asking).fu.fetchRequest = true := by decide +kernel

theorem test_witness_reads :
    answeredWord ready (windowWord 0 0x20010) = none ∧ answeredWord ready (windowWord 0 0x0FFC) = none ∧
    answeredWord ready (windowWord 0 0x4000) = none ∧ answeredWord State.reset (windowWord 0 0x1144) = none ∧
    inWindow ready.pu.base (windowWord 0 0x1144) = true ∧ windowOffset (windowWord 0 0x1144) = 0x1144 ∧
    windowOffset (windowWord 0 0x1000) = 0x1000 ∧ windowOffset (windowWord 0 0x3FFC) = 0x3FFC := by decide +kernel

theorem test_witness_GrantedTransactionRuns :
    let s := dueTo .processor 0 ready
    (MemorySound s ∧ s.pu.port = .free ∧ s.pu.waiting = .write [oneWord] :: [] ∧ s.pu.arbiter = .due .processor) ∧
    (Transaction.write [oneWord]).words.Pairwise (fun v w => v.address ≠ w.address) ∧
    ((dueTo .both 7 asking).pu.arbiter = .due .both ∧ (dueTo .both 7 asking).pu.waitCount ≠ 8) ∧
    (ready.setPu { PathUnit.reset with port := .processor (.write [oneWord]) }).pu.port = .processor (.write [oneWord]) := by
  refine ⟨⟨Memory.wf_nil, rfl, rfl, rfl⟩, ?_, ?_, rfl⟩ <;> decide

theorem test_witness_StatusPageShowsState :
    ready.au.fifo.length ≤ 1024 ∧ ready.sq.table.length ≤ 512 ∧ (∀ p : Fin 16, ready.wu.commanded[p] ≤ 1000) ∧
    (∀ p : Fin 16, ready.wu.output[p] ≤ 1000) ∧ ready.ru.pending &&& ready.ru.enable = 0 := by decide +kernel

theorem test_witness_ProtectedSlotsKept :
    let s := asking.setPending [.processorWrite (writeAt 0x20000 15) false]
    MemorySound s ∧ ResetSound s ∧ QueuesSound s ∧ WaitingSound s ∧
    (∀ c rest, s.pending = c :: rest → oneAtATime s c) ∧ (∃ t, step s = .next t) ∧
    protectedWord s (windowWord 0 0x20000) = true := by
  refine ⟨Memory.wf_nil, ?_, ⟨?_, ?_, ?_, ?_, ?_⟩, ⟨?_, ?_⟩, ?_, ⟨_, rfl⟩, ?_⟩
  · decide
  · decide
  · decide
  · trivial
  · decide
  · decide
  · decide
  · decide
  · intro c rest h
    cases h
    intro w p h
    cases h
    exact ⟨rfl, by decide⟩
  · decide +kernel

theorem test_witness_AcceptedMarkMoves :
    PathDecides true awake ∧ cuePublished awake.fu ≤ ((4095 : Fin Config.cueSlots) - awake.fu.cueFetch).val ∧
    awake.fu.final = false ∧ audioPublished awake.fu ≤ ((114687 : Fin Config.audioSlots) - awake.fu.audioFetch).val ∧
    audioPublished asking.fu ≤ ((2 : Fin Config.audioSlots) - asking.fu.audioFetch).val ∧
    asking.sq.state = .priming ∧ asking.fu.final = false := by decide +kernel

theorem test_witness_MarkFaultLeavesMarks :
    let lower : State := ready.setFu { FetchUnit.reset with cueMark := 5, audioMark := 5 }
    4096 ≤ (4096 : Word).toNat ∧
    (Fin.ofNat Config.cueSlots (4 : Word).toNat - lower.fu.cueFetch).val < cuePublished lower.fu ∧
    (ready.setFu { FetchUnit.reset with final := true }).fu.final = true ∧
    (0x20000 : Word).extractLsb' 17 14 ≠ 0 ∧ 114688 ≤ ((114688 : Word).extractLsb' 0 17).toNat ∧
    (Fin.ofNat Config.audioSlots ((4 : Word).extractLsb' 0 17).toNat - lower.fu.audioFetch).val <
      audioPublished lower.fu ∧
    inWindow awake.pu.base (writeAt 0x040 14).address = true ∧ windowOffset (writeAt 0x040 14).address = 0x040 ∧
    windowOffset (writeAt 0x044 14).address = 0x044 ∧ (writeAt 0x044 14).enables ≠ 15 := by decide +kernel

theorem test_witness_BurstDataIsPlaced :
    let cue : Burst := { kind := .cue 0, void := false }
    let audio : Burst := { kind := .audio 0 true, void := false }
    let void : Burst := { kind := .audio 0 true, void := true }
    (bursting cue [record 0 0 0 0]).inReset = false ∧ (bursting cue [record 0 0 0 0]).pu.port = .fetch cue ∧
    (bursting cue [record 0 0 0 0]).fu.cueBuffer ≠ [] ∧
    (bursting audio []).sq.state ≠ .priming ∧ (bursting audio []).pu.port = .fetch audio ∧
    (bursting void []).pu.port = .fetch void := by decide

theorem test_witness_NewHeadIsExamined :
    let s := bursting { kind := .cue 0, void := false } []
    s.inReset = false ∧ s.pu.port = .fetch { kind := .cue 0, void := false } ∧ s.fu.cueBuffer = [] ∧
    s.sq.state.live = true ∧ s.sq.headAccepted = false ∧ s.fu.cueBlocked = false ∧
    (setShow .winddown s).sq.state.live = false := by decide

theorem test_witness_show_states :
    PathDecides true ready ∧ ready.sq.state = .idle ∧ (inShow .held).sq.state ≠ .idle ∧
    (inShow .held).sq.state.live = true ∧ (inShow .winddown).sq.state.live = false ∧ ImagesSound (inShow .held) ∧
    (inShow .tripped).sq.state = .tripped := by decide

theorem test_witness_SpaceTriggersSet :
    (1 ≤ (4095 : Word).toNat ∧ (4095 : Word).toNat ≤ 4095 ∧ 1 ≤ (114687 : Word).toNat ∧ (114687 : Word).toNat ≤ 114687) ∧
    ¬((4096 : Word).toNat ≤ 4095) ∧ ¬(1 ≤ (0 : Word).toNat) := by decide

theorem test_witness_StartBeginsTestedShow :
    (inShow .tripped).sq.state ≠ .idle ∧ awake.sq.state = .idle ∧ awake.ls.tableState ≠ .valid ∧
    ready.ls.tableState = .valid ∧ ready.ls.operation = none ∧
    ¬((withArgs 3 0 0 ready).ru.arg0.toNat ≤ 2) ∧
    (withArgs 2 0xFFFFFFFE 1 ready).ru.arg0.toNat = Rate.code .r48000 ∧
    (withArgs 2 0xFFFFFFFE 1 ready).ru.arg1.toNat < 4294967295 ∧ (withArgs 2 0xFFFFFFFE 1 ready).ru.arg2.toNat ≤ 1 := by
  decide

theorem test_witness_WinddownDefersHighestValves :
    let s := beforeCloses
    let starved := fun (count : Nat) => withSq (fun x => { x with state := .starved, starveCount := count, starveLimit := 9 }) s
    let playing := s.setAu { AudioUnit.reset with clock := some .r48000, fifo := [oneFrame] }
    let silent := (starved 8).setAu { AudioUnit.reset with clock := some .r48000 }
    (s.inReset = false ∧ s.sq.state.live = true ∧ ImagesSound s) ∧
    (starved 9).sq.starveCount = (starved 9).sq.starveLimit ∧ (starved 9).sq.state = .starved ∧
    (silent.au.clock.isSome = true ∧ silent.sq.starveCount + 1 = silent.sq.starveLimit ∧ silent.fu.final = false) ∧
    (playing.au.clock.isSome = true ∧ playing.au.fifo ≠ [] ∧ playing.sq.position ≠ 0xFFFFFFFF ∧ ImagesSound playing) ∧
    (withSq (fun x => { x with position := 0xFFFFFFFF }) playing).sq.position = 0xFFFFFFFF ∧
    (withTable [entry 1 .endShow] playing).sq.table = entry 1 .endShow :: [] ∧
    (edgeAt 7).ls.table.patternHolds (2 : Fin 8) ((edgeAt 7).gu.debounced ^^^ BitVec.twoPow 16 (7 : Fin 16))
      (some (7, (edgeAt 7).gu.raw.getLsbD (7 : Fin 16))) = true ∧
    (edgeAt 7).gu.matched.getLsbD (2 : Fin 8) = false ∧ (edgeAt 7).ls.table.entryAction (2 : Fin 8) = 3 ∧
    ImagesSound (edgeAt 7) := by decide +kernel

theorem test_witness_HoldByMode :
    (withArgs 1 0 0 (inShow .starved)).sq.state = .starved ∧ (withArgs 1 0 0 (inShow .starved)).ru.arg0 = 1 ∧
    (withArgs 0 0 0 (inShow .running)).ru.arg0 = 0 ∧ 2 ≤ (withArgs 2 0 0 (inShow .held)).ru.arg0.toNat ∧
    (inShow .armed).sq.state ≠ .running ∧ (inShow .armed).sq.state ≠ .starved ∧ (inShow .armed).sq.state ≠ .held := by
  decide

theorem test_witness_StepAndProceedRunOn :
    let host := withSq (fun x => { x with holdHost := true }) (inShow .held)
    let both := withSq (fun x => { x with holdInterlock := true }) host
    (host.sq.state = .held ∧ host.sq.holdHost = true ∧ host.sq.holdInterlock = false) ∧
    ¬(both.sq.holdInterlock = false) ∧ both.sq.state = .held ∧ ready.sq.state ≠ .held := by decide

theorem test_witness_AmbientFadesEveryGroup :
    (withArgs 0 1023 0 ready).sq.state = .idle ∧ (withArgs 0 1023 0 ready).ru.arg1.toNat ≤ 1023 ∧
    1024 ≤ (withArgs 0 1024 0 ready).ru.arg1.toNat ∧ (inShow .tripped).sq.state ≠ .idle := by decide

theorem test_witness_ResyncChecksBlockedHead :
    let r := record 0x000000FE 0 0 0
    let s := (withArgs 255 0 0 (inShow .held)).setFu { FetchUnit.reset with cueBuffer := [r], cueBlocked := true }
    let u := withArgs 254 0 0 s
    s.ru.arg0.toNat ≤ 255 ∧ s.sq.state.live = true ∧ s.fu.cueBuffer = r :: [] ∧ s.sq.headAccepted = false ∧
    r.sequence.toNat ≠ s.ru.arg0.toNat ∧ r.sequence.toNat = u.ru.arg0.toNat ∧ r.actions = none ∧
    (u.setFu { u.fu with cueBuffer := [r, record 0x00050100 0 1 0] }).fu.cueBuffer = [r, record 0x00050100 0 1 0] ∧
    (withArgs 255 0 0 ready).sq.state.live = false ∧ (inShow .held).fu.cueBuffer = [] ∧
    256 ≤ (withArgs 256 0 0 ready).ru.arg0.toNat := by decide +kernel

theorem test_witness_mute_and_monitor :
    (withArgs 15 0 0 ready).ru.arg0.toNat ≤ 15 ∧ 16 ≤ (withArgs 16 0 0 ready).ru.arg0.toNat ∧
    (withArgs 3 65535 32767 ready).ru.arg0.toNat = (3 : Fin 4).val ∧
    (withArgs 3 65535 32767 ready).ru.arg1.toNat ≤ 65535 ∧ (withArgs 3 65535 32767 ready).ru.arg2.toNat ≤ 32767 ∧
    3 < (withArgs 4 0 0 ready).ru.arg0.toNat ∧ 65535 < (withArgs 0 65536 0 ready).ru.arg1.toNat ∧
    32767 < (withArgs 0 0 32768 ready).ru.arg2.toNat := by decide

theorem test_witness_partial_writes :
    (∀ offset ∈ [0x004, 0x008, 0x00C, 0x0C0, 0x0C4, 0x04000, 0x0403C],
      inWindow awake.pu.base (writeAt offset 7).address = true ∧ windowOffset (writeAt offset 7).address = offset) ∧
    (writeAt 0x004 7).enables ≠ 15 := by decide +kernel

theorem test_witness_CauseWordReadRemovesCause :
    let s := ready.setRu { ReportUnit.reset with pending := 0x100, enable := 0x100, attention := true }
    (s.ru.pending.getLsbD (8 : Fin 9) = true ∧ s.ru.enable.getLsbD (8 : Fin 9) = true ∧
      ∀ j : Fin 9, j < 8 → s.ru.pending.getLsbD j = false ∨ s.ru.enable.getLsbD j = false) ∧
    ready.ru.pending &&& ready.ru.enable = 0 := by decide

theorem test_witness_limit_commands :
    inWindow awake.pu.base (writeAt 0x080 15).address = true ∧ windowOffset (writeAt 0x080 15).address = 0x080 ∧
    (writeAt 0x080 15).enables = 15 ∧ WellFormed (.limitCmdUnknownCode 0x2001 false false) = true ∧
    ready.ls.operation = none ∧ (ready.setLs { ready.ls with marks := 0xFFFF }).ls.marks = 0xFFFF ∧
    ready.ls.locked = false := by decide +kernel

theorem test_witness_CompletionsChangeTable :
    let run := fun (n : OpName) => ready.setLs (ready.ls.begin n 4)
    (run (.programRow 31)).ls.operation = some { name := .programRow 31, words := Vector.replicate 16 0, dueMs := 4 } ∧
    (run .setLock).ls.operation = some { name := .setLock, words := Vector.replicate 16 0, dueMs := 4 } ∧
    (run .eraseAll).ls.operation = some { name := .eraseAll, words := Vector.replicate 16 0, dueMs := 4 } := ⟨rfl, rfl, rfl⟩

theorem test_witness_RunningIsEntered :
    let primed := (inShow .priming).setAu { AudioUnit.reset with fifo := List.replicate 512 oneFrame }
    let wait := withSq (fun x => { x with sync := .wait }) primed
    let short := (inShow .priming).setAu { AudioUnit.reset with fifo := List.replicate 511 oneFrame }
    primed.sq.state = .priming ∧ 512 ≤ primed.au.fifo.length ∧ primed.sq.sync = .immediate ∧ wait.sq.sync = .wait ∧
    ¬(512 ≤ short.au.fifo.length ∨ (short.fu.final = true ∧ short.fu.audioFetch = short.fu.audioMark)) ∧
    (inShow .armed).sq.state = .armed ∧ (inShow .running).sq.state ≠ .armed := by decide +kernel

theorem test_witness_RecordsExpandByKind :
    (∀ r ∈ lawfulRecords, r.actions ≠ none) ∧ ∀ r ∈ unlawfulRecords, r.actions = none := by decide +kernel

theorem test_witness_WaitingRecordExpands :
    let r := record 0x000F0200 7 1000 0
    let waiting := fun (entries : Nat) =>
      (withSq (fun x => { x with headAccepted := true, table := List.replicate entries (entry 900 .endShow) })
        (inShow .running)).setFu { FetchUnit.reset with cueBuffer := [r] }
    (waiting 511).sq.state.live = true ∧ (waiting 511).sq.headAccepted = true ∧ (waiting 511).fu.cueBuffer = r :: [] ∧
    r.actions = some [.pump 15 1000] ∧ (waiting 511).sq.table.length + 1 ≤ 512 ∧ 512 < (waiting 512).sq.table.length + 1 ∧
    (inShow .running).sq.headAccepted = false ∧ (waiting 511).fu.cueBlocked = false ∧
    (setShow .winddown (waiting 0)).sq.state.live = false ∧ (setShow .winddown (waiting 0)).sq.headAccepted = true ∧
    ((waiting 511).setFu { FetchUnit.reset with cueBuffer := [r, r] }).fu.cueBuffer = [r, r] := by decide +kernel

theorem test_witness_FramePeriodAdvances :
    let s := withTable [entry 2 .endShow] (playing 1)
    let due := withTable ([entry 0 (.mark 1 false)] ++ entry 1 (.mark 2 false) :: [entry 2 .endShow]) (playing 1)
    (s.inReset = false ∧ s.au.clock.isSome = true ∧ s.sq.state = .running ∧ s.sq.position ≠ 0xFFFFFFFF ∧
      s.au.fifo ≠ [] ∧ s.sq.headAccepted = false ∧ s.sq.runDivided = false) ∧
    (∀ e, s.sq.table.head? = some e → s.sq.position.toNat + 1 < e.due.toNat) ∧
    (∀ e ∈ [entry 0 (.mark 1 false)] ++ [entry 1 (.mark 2 false)],
      e.due.toNat ≤ due.sq.position.toNat + 1 ∧ e.action ≠ .endShow) ∧
    ∀ e, [entry 2 .endShow].head? = some e → due.sq.position.toNat + 1 < e.due.toNat := by
  refine ⟨by decide, ?_, by decide, ?_⟩ <;> intro e h <;> cases h <;> decide

/-- A playing show with a record waiting behind a full table, whose first entry is due at the next position. -/
def waitingShow (far : Nat) : State :=
  let s := withTable (entry 1 (.mark 1 false) :: List.replicate far (entry 9 .endShow)) (playing 1)
  (withSq (fun x => { x with headAccepted := true, holdPending := .atMark }) s).setFu
    { FetchUnit.reset with cueBuffer := [record 0x000F0200 7 1000 0] }

/-- The head that waited is expanded in the frame period whose release makes room, before the at-mark hold (R60, R62). -/
theorem test_waiting_head_is_retried :
    after .framePeriod (waitingShow 511)
      (fun t => decide (t.sq.table.length = 512 ∧ t.fu.cueBuffer = [] ∧ t.sq.headAccepted = false ∧ t.sq.state = .held)) =
      true := by decide +kernel

theorem test_witness_waiting_head :
    (waitingShow 511).sq.table = [] ++ entry 1 (.mark 1 false) :: List.replicate 511 (entry 9 .endShow) ∧
    (waitingShow 511).fu.cueBuffer = [record 0x000F0200 7 1000 0] ∧ (waitingShow 511).fu.cueBlocked = false ∧
    (waitingShow 511).sq.headAccepted = true ∧ (waitingShow 511).sq.runDivided = false ∧ (record 0x000F0200 7 1000 0).actions = some [.pump 15 1000] ∧
    (List.replicate 511 (entry 9 .endShow)).length + 1 ≤ 512 ∧ 512 < (List.replicate 512 (entry 9 .endShow)).length + 1 := by
  decide +kernel

/-- A playing show whose advance, next in the queue, divides a run: its next record, with cue time 0, is at the head. -/
def dividedShow : State :=
  ((withSq (fun x => { x with runDivided := true }) (playing 1)).setFu
    { FetchUnit.reset with cueBuffer := [record 0x000F0200 0 1000 0] }).setPending [.framePeriod]

/-- The record left for the advance is judged at the position reached, so that its entry is late (R51, R61). -/
theorem test_divided_run_goes_on :
    (match step dividedShow with
      | .next t => decide (t.sq.position = 1 ∧ t.sq.runDivided = false ∧ t.fu.cueBuffer = [] ∧ t.sq.lateCount = 1)
      | .fault _ | .refused _ => false) = true := by decide +kernel

/-- A playing show with two records to examine, an advance next in the queue. -/
def meetingShow : State :=
  ((playing 1).setFu
    { FetchUnit.reset with cueBuffer := [record 0x000F0200 7 1000 0, record 0x000F0201 0 1000 0] }).setPending [.framePeriod]

/-- Whichever order the free value has, the first record is expanded; the second waits for the advance exactly when the
advance is taken first, and goes in at the position before it otherwise (R51). -/
theorem test_run_meets_advance :
    (examineRun meetingShow.fu.cueBuffer meetingShow).sq.runDivided = Config.advanceDivides 0 ∧
    (examineRun meetingShow.fu.cueBuffer meetingShow).sq.table.length = (if Config.advanceDivides 0 then 1 else 2) ∧
    (examineRun meetingShow.fu.cueBuffer meetingShow).sq.lateCount = 0 := by
  rw [show meetingShow.fu.cueBuffer = [record 0x000F0200 7 1000 0, record 0x000F0201 0 1000 0] from rfl,
    examineRun_meets (by decide +kernel) (by decide +kernel),
    show (examineRecord (record 0x000F0200 7 1000 0) [record 0x000F0201 0 1000 0] meetingShow).state.meetings = 0 from rfl]
  cases Config.advanceDivides 0 <;> decide +kernel

theorem test_witness_divided_run :
    let due := withTable ([] ++ entry 1 (.mark 1 false) :: [entry 2 .endShow]) dividedShow
    let starved := withSq (fun x => { x with state := .starved }) (dividedShow.setAu (playing 64).au)
    dividedShow.sq.runDivided = true ∧ dividedShow.sq.headAccepted = false ∧ dividedShow.fu.cueBlocked = false ∧
    dividedShow.fu.cueBuffer = [record 0x000F0200 0 1000 0] ∧ dividedShow.sq.state = .running ∧
    dividedShow.sq.table.head? = none ∧ due.sq.table = [] ++ entry 1 (.mark 1 false) :: [entry 2 .endShow] ∧
    64 ≤ starved.au.fifo.length ∧ starved.sq.runDivided = true ∧ starved.fu.cueBuffer = dividedShow.fu.cueBuffer ∧
    AdvanceNext meetingShow ∧ RunSound dividedShow ∧ ResetSound dividedShow := by
  refine ⟨by decide, by decide, by decide, by decide, by decide, by decide, by decide, by decide, by decide, by decide,
    by decide, by decide, fun h => by cases h⟩

theorem test_witness_FramePeriodWithoutAdvance :
    (playing 0).au.clock.isSome = true ∧ (playing 0).sq.state = .running ∧ (playing 0).au.fifo = [] ∧
    (playing 0).fu.final = false ∧
    (withSq (fun x => { x with position := 0xFFFFFFFF }) (playing 1)).sq.position = 0xFFFFFFFF ∧
    (playing 1).au.fifo ≠ [] ∧ (setShow .winddown (playing 1)).sq.state = .winddown ∧ ready.au.clock = none := by decide

theorem test_witness_StarvedShowResumesOrCounts :
    let starved := fun (frames count : Nat) =>
      withSq (fun x => { x with state := .starved, starveCount := count, starveLimit := 9 }) (playing frames)
    (starved 64 0).sq.state = .starved ∧ (starved 64 0).au.clock.isSome = true ∧ 64 ≤ (starved 64 0).au.fifo.length ∧
    (starved 64 0).sq.position ≠ 0xFFFFFFFF ∧ (starved 64 0).sq.table.head? = none ∧
    (starved 64 0).sq.headAccepted = false ∧ (starved 64 0).sq.runDivided = false ∧
    (withTable [entry 0 (.mark 1 true)] (starved 64 0)).sq.table = [] ++ entry 0 (.mark 1 true) :: [] ∧
    (entry 0 (.mark 1 true)).due.toNat ≤ (starved 64 0).sq.position.toNat + 1 ∧
    (withSq (fun x => { x with position := 0xFFFFFFFF }) (starved 64 0)).sq.position = 0xFFFFFFFF ∧
    ¬(64 ≤ (starved 63 7).au.fifo.length) ∧ (starved 63 7).fu.final = false ∧
    (starved 63 7).sq.starveCount + 1 ≠ (starved 63 7).sq.starveLimit ∧
    (starved 63 8).sq.starveCount + 1 = (starved 63 8).sq.starveLimit ∧ (starved 63 8).au.fifo.length < 64 ∧
    (starved 0 9).sq.starveCount = (starved 0 9).sq.starveLimit := by decide +kernel

/-- A running show whose front entry, of an action, is due at the next position, with another one position later. -/
def releasing (a : Action) : State := withTable [entry 1 a, entry 2 .endShow] (playing 1)

theorem test_witness_deliveries :
    let s := releasing (.valve 191 false)
    let t := s.setWu { WaterUnit.reset with wanted := BitVec.twoPow 192 191, applied := BitVec.twoPow 192 191 }
    (s.inReset = false ∧ s.au.clock.isSome = true ∧ s.sq.state = .running ∧ s.sq.position ≠ 0xFFFFFFFF ∧
      s.au.fifo ≠ [] ∧ s.sq.headAccepted = false ∧ s.sq.runDivided = false ∧
      s.sq.table = entry 1 (.valve 191 false) :: [entry 2 .endShow] ∧
      (entry 1 (.valve 191 false)).due.toNat ≤ s.sq.position.toNat + 1) ∧
    (∀ x, [entry 2 .endShow].head? = some x → s.sq.position.toNat + 1 < x.due.toNat) ∧
    (∀ c : Fin 4, s.au.monitors[c].window = 0) ∧
    s.wu.wanted.getLsbD (191 : Fin 192) = false ∧ t.wu.wanted.getLsbD (191 : Fin 192) = true := by
  refine ⟨by decide, ?_, by decide, by decide, by decide⟩
  intro x h; cases h; decide

theorem test_witness_MonitorsTakeEmittedSamples :
    let full : Monitor := { Monitor.off with window := 1, counted := 1 }
    let s := (playing 1).setAu { (playing 1).au with monitors := Vector.replicate 4 full }
    MonitorsSound (playing 1) ∧ s.au.monitors[(3 : Fin 4)].window ≠ 0 ∧
    s.au.monitors[(3 : Fin 4)].window ≤ s.au.monitors[(3 : Fin 4)].counted := by decide

/-- A deferred close whose header is long enough again goes through in a field period and not before it (R98). -/
theorem test_deferred_close_is_a_field_period :
    let s := beforeCloses.setWu { beforeCloses.wu with
      wanted := bitErase beforeCloses.wu.wanted 66, deferred := BitVec.twoPow 192 66 }
    after (.deferredCloseApply 66) s
      (fun t => decide (t.wu.deferred = 0 ∧ t.wu.applied = s.wu.wanted ∧ t.wu.frameCount = 1)) = true ∧
    after (.deferredCloseApply 64) s (fun t => decide (t.wu = s.wu)) = true ∧
    after .colourPeriod s (fun t => decide (t.wu.deferred.getLsbD 66 = true ∧ t.wu.applied.getLsbD 66 = true)) = true ∧
    s.wu.wanted.getLsbD 66 = false := by decide +kernel

theorem test_witness_WinddownCompletes :
    let s := withSq (fun x => { x with colourTaken := true }) (inShow .winddown)
    (s.sq.state = .winddown ∧ (∀ p : Fin 16, s.wu.output[p] = 0) ∧ s.wu.applied = 0 ∧
      (∀ g : Fin 64, s.lu.groups[g].fade = 0 ∧ s.lu.groups[g].current = s.lu.groups[g].target) ∧ s.sq.colourTaken = true) ∧
    (∀ p : Fin 16, s.wu.commanded[p] = 0) ∧ (inShow .winddown).sq.colourTaken = false ∧
    ∀ g : Fin 64, (inShow .winddown).lu.groups[g].fade.toNat ≤ 1 := by decide +kernel

/-- Patterns of the table of section 6.5: a level spec, an edge spec, and entries whose specs are all ignore. -/
theorem test_patterns :
    beamTable.patternHolds 0 0x80 none = true ∧ beamTable.patternHolds 0 0x88 none = false ∧
    beamTable.patternHolds 2 0x08 (some (7, false)) = true ∧ beamTable.patternHolds 2 0x08 none = false ∧
    beamTable.patternHolds 1 0 none = false ∧ beamTable.latching 0 = false ∧ beamTable.latching 2 = true ∧
    (beamTable.byte (1344 + 16 * 2 + 8)).toNat = 0 ∧
    ((beamTable.setRow 21 (rowWith 8 1 1 0x12)).byte 1352).toNat = 1 ∧
    (beamTable.setRow 21 (rowWith 8 1 1 0x12)).patternHolds 0 0x0C none = true := by decide +kernel

theorem test_witness_sense_and_wind :
    (edgeAt 3).inReset = false ∧ (edgeAt 3).gu.timers[(3 : Fin 16)] ≠ none ∧
    (edgeAt 3).gu.raw.getLsbD (3 : Fin 16) ≠ (edgeAt 3).gu.debounced.getLsbD (3 : Fin 16) ∧
    (edgeAt 3).gu.raw.getLsbD (7 : Fin 16) ≠ false ∧
    (ready.setGu { GuardUnit.reset with gate := some 10 }).gu.gate ≠ none := by decide +kernel

theorem test_witness_ResetReleaseStartsThePart : State.reset.inReset = true ∧ ResetSound State.reset :=
  ⟨rfl, fun _ => ⟨rfl, rfl, rfl, rfl, rfl, rfl, rfl, rfl, rfl, rfl, rfl, rfl, rfl⟩⟩

theorem test_witness_invariants :
    (∃ t, step (State.reset.setPending [.resetRelease 0 0]) = .next t) ∧
    HoldsSound ready ∧ RecordSound ready ∧ ClockSound (playing 1) ∧ TableSound (releasing .endShow) ∧
    TableEmptySound (releasing .endShow) ∧ MonitorsSound ready ∧ LatchesSound (edgeAt 3) ∧ AttentionSound ready ∧
    RequestSound asking ∧ ArbiterSound (dueTo .both 7 asking) ∧ WaitSound (dueTo .both 7 asking) := by
  refine ⟨⟨_, rfl⟩, ?_⟩
  decide +kernel

theorem test_witness_QueuesStaySound :
    QueuesSound (dueTo .both 7 asking) ∧ ArbiterSound (dueTo .both 7 asking) ∧
    ∃ t, step ((dueTo .both 7 asking).setPending [grant true]) = .next t :=
  ⟨⟨by decide, by decide, trivial, by decide, by decide⟩, by decide, _, rfl⟩

theorem test_witness_ResetSound : ResetSound beforeCloses := fun h => by cases h

theorem test_witness_WaterStaysSound : WaterSound beforeCloses :=
  { images := by decide +kernel
    asked := by decide +kernel
    rest := by decide +kernel
    limits := by decide +kernel
    headers := by decide +kernel
    speeds := by decide +kernel }

end Sys2Proof.Tests
end

section
/-! Proofs: what the end of an event, a captured word and a frame period leave as they were. -/

namespace Sys2Proof.Machine

/-! ## The end of an event -/

@[simp] theorem settle_sq (s : State) : (settle s).sq = s.sq := rfl
@[simp] theorem settle_au (s : State) : (settle s).au = s.au := rfl
@[simp] theorem settle_wu (s : State) : (settle s).wu = s.wu := rfl
@[simp] theorem settle_lu (s : State) : (settle s).lu = s.lu := rfl
@[simp] theorem settle_gu (s : State) : (settle s).gu = s.gu := rfl
@[simp] theorem settle_ls (s : State) : (settle s).ls = s.ls := rfl
@[simp] theorem settle_mem (s : State) : (settle s).mem = s.mem := rfl
@[simp] theorem settle_pending (s : State) : (settle s).pending = s.pending := rfl
@[simp] theorem settle_inReset (s : State) : (settle s).inReset = s.inReset := rfl

theorem settle_fu (s : State) : (settle s).fu = { s.fu with fetchRequest := (settle s).fu.fetchRequest } := rfl
theorem settle_pu (s : State) :
    (settle s).pu = { s.pu with waitCount := (settle s).pu.waitCount, arbiter := (settle s).pu.arbiter } := rfl
theorem settle_ru (s : State) : (settle s).ru = { s.ru with attention := (settle s).ru.attention } := rfl

theorem fetchKept_settle {s t : State} (h : t.fu = s.fu) : FetchKept s (settle t) := by
  rw [FetchKept, ← h]; rfl

theorem pathKept_settle {s t : State} (h : t.pu = s.pu) : PathKept s (settle t) := by
  rw [PathKept, ← h]; rfl

theorem reportKept_settle {s t : State} (h : t.ru = s.ru) : ReportKept s (settle t) := by
  rw [ReportKept, ← h]; rfl

theorem reportRaised_settle {c : Cause} {s t : State} (h : t.ru = (raise c s).ru) : ReportRaised c s (settle t) := by
  rw [ReportRaised, settle_ru, h]; rfl

theorem groundKept_of {s t : State} (reset : t.inReset = s.inReset) (mem : t.mem = s.mem) : GroundKept s t :=
  ⟨reset, fun _ => by rw [mem]⟩

theorem GroundKept.of_eq {s r t : State} (h : GroundKept r t) (reset : r.inReset = s.inReset) (mem : r.mem = s.mem) :
    GroundKept s t := ⟨h.1.trans reset, fun a => (h.2 a).trans (by rw [mem])⟩

theorem FetchKept.of_eq {s r t : State} (h : FetchKept r t) (fu : r.fu = s.fu) : FetchKept s t := by
  rw [FetchKept, ← fu]; exact h

theorem PathKept.of_eq {s r t : State} (h : PathKept r t) (pu : r.pu = s.pu) : PathKept s t := by
  rw [PathKept, ← pu]; exact h

theorem ReportKept.of_eq {s r t : State} (h : ReportKept r t) (ru : r.ru = s.ru) : ReportKept s t := by
  rw [ReportKept, ← ru]; exact h

theorem ReportKept.raised {c : Cause} {s r t : State} (h : ReportKept r t) (ru : r.ru = (raise c s).ru) :
    ReportRaised c s t := by
  rw [ReportKept, ru] at h; exact h

theorem nothingDone_settle (s : State) : NothingDone s (settle s) :=
  ⟨⟨rfl, rfl⟩, ⟨rfl, rfl, rfl, rfl⟩, groundKept_of rfl rfl, rfl, rfl, rfl⟩

/-- An event taken out of reset completes with what its operation leaves, settled. -/
theorem completes_event {c : Instr} {f : State → State} {s : State} {P : State → Prop}
    (row : exec c s = answer (outOfReset f s)) (out : s.inReset = false) (h : P (settle (f s))) : Completes c s P :=
  ⟨settle (f s), by rw [row, outOfReset_released f s out]; rfl, h⟩

/-! ## Small setters -/

@[simp] theorem sq_setShow (x : ShowState) (s : State) : (setShow x s).sq = { s.sq with state := x } := rfl
@[simp] theorem au_setShow (x : ShowState) (s : State) : (setShow x s).au = s.au := rfl
@[simp] theorem sq_raise (c : Cause) (s : State) : (raise c s).sq = s.sq := rfl
@[simp] theorem au_raise (c : Cause) (s : State) : (raise c s).au = s.au := rfl
@[simp] theorem wu_raise (c : Cause) (s : State) : (raise c s).wu = s.wu := rfl
@[simp] theorem lu_raise (c : Cause) (s : State) : (raise c s).lu = s.lu := rfl
@[simp] theorem fu_raise (c : Cause) (s : State) : (raise c s).fu = s.fu := rfl
@[simp] theorem sq_fillRecord (c : FaultCause) (s : State) : (fillRecord c s).sq =
    { s.sq with faultRecord := { first := some c, position := s.sq.position, secondary := 0 } } := rfl
@[simp] theorem ru_fillRecord (c : FaultCause) (s : State) : (fillRecord c s).ru = s.ru := rfl
@[simp] theorem wu_fillRecord (c : FaultCause) (s : State) : (fillRecord c s).wu = s.wu := rfl
@[simp] theorem lu_fillRecord (c : FaultCause) (s : State) : (fillRecord c s).lu = s.lu := rfl
@[simp] theorem ls_fillRecord (c : FaultCause) (s : State) : (fillRecord c s).ls = s.ls := rfl
@[simp] theorem au_fillRecord (c : FaultCause) (s : State) : (fillRecord c s).au = s.au := rfl

end Sys2Proof.Machine
end

section
/-! Proofs: what each operation makes of the rules of the show. `ShowKeeps` is the part that composes without regard to a
divided run, `ShowGoes` adds that no run is divided, and `ShowRuns` that a run is divided only by the advance that comes next. -/

namespace Sys2Proof.Machine

/-! ## The three relations -/

/-- The rules of holds, fault record, frame clock and release table pass from one state to another. -/
structure ShowKeeps (s t : State) : Prop where
  holds : HoldsSound s → HoldsSound t
  record : RecordSound s → RecordSound t
  clock : ClockSound s → ClockSound t
  table : TableSound s → TableSound t
  empty : TableEmptySound s → TableEmptySound t

/-- The rules of the show pass on, and a run that stands whole stays whole. -/
structure ShowGoes (s t : State) : Prop extends ShowKeeps s t where
  whole : s.sq.runDivided = false → t.sq.runDivided = false

/-- The rules of the show pass on, and a run that stands whole is divided only by the advance that comes next. -/
structure ShowRuns (s t : State) : Prop extends ShowKeeps s t where
  run : s.sq.runDivided = false → RunSound t

/-- The items that the rules of holds, fault record and clock look at are the same. -/
structure ShowStands (s t : State) : Prop where
  state : t.sq.state = s.sq.state
  kind : t.sq.kind = s.sq.kind
  host : t.sq.holdHost = s.sq.holdHost
  interlock : t.sq.holdInterlock = s.sq.holdInterlock
  record : t.sq.faultRecord = s.sq.faultRecord
  clock : t.au.clock = s.au.clock

/-- Everything that the rules of the show look at is the same. -/
structure ShowUnmoved (s t : State) : Prop where
  sq : t.sq = s.sq
  clock : t.au.clock = s.au.clock
  fifo : t.au.fifo = s.au.fifo
  fetch : FetchKept s t
  pending : t.pending = s.pending

theorem ShowKeeps.refl (s : State) : ShowKeeps s s := ⟨id, id, id, id, id⟩

theorem ShowKeeps.trans {s t u : State} (h : ShowKeeps s t) (k : ShowKeeps t u) : ShowKeeps s u :=
  ⟨k.holds ∘ h.holds, k.record ∘ h.record, k.clock ∘ h.clock, k.table ∘ h.table, k.empty ∘ h.empty⟩

theorem ShowGoes.refl (s : State) : ShowGoes s s := ⟨ShowKeeps.refl s, id⟩

theorem ShowGoes.trans {s t u : State} (h : ShowGoes s t) (k : ShowGoes t u) : ShowGoes s u :=
  ⟨h.toShowKeeps.trans k.toShowKeeps, k.whole ∘ h.whole⟩

/-- A whole run keeps the rule of divided runs. -/
theorem runSound_whole {s : State} (h : s.sq.runDivided = false) : RunSound s := fun d => by simp [h] at d

theorem ShowGoes.runs {s t : State} (h : ShowGoes s t) : ShowRuns s t :=
  ⟨h.toShowKeeps, fun w => runSound_whole (h.whole w)⟩

theorem ShowGoes.thenRuns {s t u : State} (h : ShowGoes s t) (k : ShowRuns t u) : ShowRuns s u :=
  ⟨h.toShowKeeps.trans k.toShowKeeps, fun w => k.run (h.whole w)⟩

theorem ShowStands.refl (s : State) : ShowStands s s := ⟨rfl, rfl, rfl, rfl, rfl, rfl⟩

theorem ShowStands.trans {s t u : State} (h : ShowStands s t) (k : ShowStands t u) : ShowStands s u :=
  ⟨k.state.trans h.state, k.kind.trans h.kind, k.host.trans h.host, k.interlock.trans h.interlock,
    k.record.trans h.record, k.clock.trans h.clock⟩

/-- Where only the table moves, the rules of the show pass on with those of the table. -/
theorem ShowStands.keeps {s t : State} (h : ShowStands s t) (table : TableSound s → TableSound t)
    (empty : s.sq.state.live = false → s.sq.table = [] → t.sq.table = []) : ShowKeeps s t where
  holds k := by rw [HoldsSound, h.state, h.host, h.interlock]; exact k
  record k := by rw [RecordSound, h.state, h.kind, h.record]; exact k
  clock k := by rw [ClockSound, h.state, h.clock]; exact k
  table := table
  empty k := by rw [TableEmptySound, h.state]; exact fun dead => empty dead (k dead)

/-- Where neither the table nor the run moves, all the rules of the show pass on. -/
theorem ShowStands.goes {s t : State} (h : ShowStands s t) (table : t.sq.table = s.sq.table)
    (run : t.sq.runDivided = s.sq.runDivided) : ShowGoes s t where
  toShowKeeps := h.keeps (fun k => by rw [TableSound, table]; exact k) (fun _ k => table.trans k)
  whole w := run.trans w

theorem ShowUnmoved.refl (s : State) : ShowUnmoved s s := ⟨rfl, rfl, rfl, rfl, rfl⟩

theorem ShowUnmoved.trans {s t u : State} (h : ShowUnmoved s t) (k : ShowUnmoved t u) : ShowUnmoved s u :=
  ⟨k.sq.trans h.sq, k.clock.trans h.clock, k.fifo.trans h.fifo, by
    have a := h.fetch; have b := k.fetch
    rw [FetchKept] at a b ⊢; rw [b, a], k.pending.trans h.pending⟩

theorem ShowUnmoved.goes {s t : State} (h : ShowUnmoved s t) : ShowGoes s t :=
  ShowStands.goes ⟨by rw [h.sq], by rw [h.sq], by rw [h.sq], by rw [h.sq], by rw [h.sq], h.clock⟩ (by rw [h.sq])
    (by rw [h.sq])

/-- The rule of divided runs passes on where nothing that it looks at has moved. -/
theorem ShowUnmoved.runSound {s t : State} (h : ShowUnmoved s t) (k : RunSound s) : RunSound t := by
  have fetch := h.fetch
  rw [FetchKept] at fetch
  rw [RunSound, AdvanceNext, h.sq, h.clock, h.fifo, h.pending, fetch]
  exact k

theorem ShowRuns.thenUnmoved {s t u : State} (h : ShowRuns s t) (k : ShowUnmoved t u) : ShowRuns s u :=
  ⟨h.toShowKeeps.trans k.goes.toShowKeeps, fun w => k.runSound (h.run w)⟩

theorem settle_unmoved (s : State) : ShowUnmoved s (settle s) := ⟨rfl, rfl, rfl, rfl, rfl⟩

/-- A change of blocks beside sequencer and audio unit leaves the rules of the show. -/
theorem goes_of_beside {s t : State} (sq : t.sq = s.sq) (au : t.au = s.au) : ShowGoes s t :=
  ShowStands.goes ⟨by rw [sq], by rw [sq], by rw [sq], by rw [sq], by rw [sq], by rw [au]⟩ (by rw [sq]) (by rw [sq])

theorem setFu_goes (s : State) (x : FetchUnit) : ShowGoes s (s.setFu x) := goes_of_beside rfl rfl
theorem setWu_goes (s : State) (x : WaterUnit) : ShowGoes s (s.setWu x) := goes_of_beside rfl rfl
theorem setLu_goes (s : State) (x : LightUnit) : ShowGoes s (s.setLu x) := goes_of_beside rfl rfl
theorem setGu_goes (s : State) (x : GuardUnit) : ShowGoes s (s.setGu x) := goes_of_beside rfl rfl
theorem setLs_goes (s : State) (x : LimitStore) : ShowGoes s (s.setLs x) := goes_of_beside rfl rfl
theorem setPu_goes (s : State) (x : PathUnit) : ShowGoes s (s.setPu x) := goes_of_beside rfl rfl
theorem raise_goes (c : Cause) (s : State) : ShowGoes s (raise c s) := goes_of_beside rfl rfl

/-! ## Moves between live states -/

/-- A live show is not at rest. -/
theorem ShowState.not_resting_of_live {x : ShowState} (h : x.live = true) : x.resting = false := by
  cases x <;> simp_all [ShowState.live, ShowState.resting]

/-- A live show has an empty fault record (R21). -/
theorem recordSound_live {s : State} (h : s.sq.state.live = true) :
    RecordSound s ↔ s.sq.faultRecord = FaultRecord.empty := by
  rw [RecordSound, if_neg]
  rintro (k | ⟨k, -⟩) <;> simp [k, ShowState.live] at h

/-- A live show has its frame clock running (R72). -/
theorem clockSound_live {s : State} (h : s.sq.state.live = true) : ClockSound s ↔ s.au.clock.isSome = true := by
  rw [ClockSound, ShowState.not_resting_of_live h]; rfl

/-- A move from one live state to another keeps the rules of the show when it keeps that of the holds. -/
theorem goes_of_live {s t : State} (before : s.sq.state.live = true) (after : t.sq.state.live = true)
    (holds : HoldsSound s → HoldsSound t) (record : t.sq.faultRecord = s.sq.faultRecord)
    (clock : t.au.clock = s.au.clock) (table : t.sq.table = s.sq.table) (run : t.sq.runDivided = s.sq.runDivided) :
    ShowGoes s t where
  holds := holds
  record k := by rw [recordSound_live after, record]; exact (recordSound_live before).mp k
  clock k := by rw [clockSound_live after, clock]; exact (clockSound_live before).mp k
  table k := by rw [TableSound, table]; exact k
  empty _ dead := by simp [after] at dead
  whole w := run.trans w

/-! ## Entry to RUNNING, and holds -/

theorem enterRunning_sq (s : State) :
    (enterRunning s).sq = { s.sq with
      state := if anyMatched s .hold = true then .held else .running
      holdInterlock := s.sq.holdInterlock || anyMatched s .hold } := by
  unfold enterRunning
  split <;> simp_all [setShow]

/-- An accepted entry to RUNNING leaves the show live. -/
theorem enterRunning_live (s : State) : (enterRunning s).sq.state.live = true := by
  rw [enterRunning_sq]; dsimp only; split <;> rfl

theorem enterRunning_au (s : State) : (enterRunning s).au = s.au := by rw [enterRunning_frame]; rfl

/-- A show without a hold reason enters RUNNING, or HELD for INTERLOCK, by the rule of the holds (R6, R13). -/
theorem enterRunning_holds {s : State} (host : s.sq.holdHost = false) (interlock : s.sq.holdInterlock = false) :
    HoldsSound (enterRunning s) := by
  rw [HoldsSound, enterRunning_sq]
  cases h : anyMatched s .hold <;> simp [host, interlock]

theorem holdsSound_clear {s : State} (h : HoldsSound s) (k : s.sq.state ≠ .held) :
    s.sq.holdHost = false ∧ s.sq.holdInterlock = false := by
  have none := fun r => k (h.mpr r)
  constructor
  · exact Bool.eq_false_iff.mpr fun r => none (.inl r)
  · exact Bool.eq_false_iff.mpr fun r => none (.inr r)

theorem enterRunning_goes {s : State} (h : s.sq.state.live = true) (k : s.sq.state ≠ .held) :
    ShowGoes s (enterRunning s) := by
  refine goes_of_live h (enterRunning_live s) (fun sound => ?_) ?_ (by rw [enterRunning_au]) ?_ ?_
  · obtain ⟨host, interlock⟩ := holdsSound_clear sound k
    exact enterRunning_holds host interlock
  all_goals rw [enterRunning_sq]

theorem primingTest_goes (s : State) : ShowGoes s (primingTest s) := by
  unfold primingTest
  split
  case h_1 priming =>
    have live : s.sq.state.live = true := by rw [priming]; rfl
    split
    · split
      · exact enterRunning_goes live (by simp [priming])
      · exact goes_of_live live rfl (fun h => by have := holdsSound_clear h (by simp [priming]); simp [HoldsSound, this])
          rfl rfl rfl rfl
    · exact ShowGoes.refl s
  all_goals exact ShowGoes.refl s

theorem takeSync_goes (s : State) : ShowGoes s (takeSync s) := by
  unfold takeSync; split
  · exact enterRunning_goes (by simp_all [ShowState.live]) (by simp_all)
  · exact ShowGoes.refl s

theorem holdForHost_goes {s : State} (h : s.sq.state.live = true) : ShowGoes s (holdForHost s) :=
  goes_of_live h rfl (fun _ => by simp [HoldsSound, holdForHost]) rfl rfl rfl rfl

theorem ShowState.live_of_holdable {x : ShowState} (h : x.holdable = true) : x.live = true := by
  cases x <;> simp_all [ShowState.live, ShowState.holdable]

theorem takeHold_goes {s : State} (h : s.sq.state.holdable = true) : ShowGoes s (takeHold s) := by
  unfold takeHold; split
  · exact holdForHost_goes (ShowState.live_of_holdable h)
  · exact ShowStands.goes ⟨rfl, rfl, rfl, rfl, rfl, rfl⟩ rfl rfl

theorem takeStep_goes {s : State} (held : s.sq.state = .held) (interlock : s.sq.holdInterlock = false) :
    ShowGoes s (takeStep s) := by
  unfold takeStep
  refine goes_of_live (by rw [held]; rfl) (enterRunning_live _) (fun _ => enterRunning_holds rfl interlock) ?_
    (by rw [enterRunning_au]; rfl) ?_ ?_
  all_goals rw [enterRunning_sq]; rfl

theorem takeProceed_goes {s : State} (held : s.sq.state = .held) : ShowGoes s (takeProceed s) := by
  have live : s.sq.state.live = true := by rw [held]; rfl
  unfold takeProceed
  dsimp only
  split
  case isTrue interlock =>
    exact goes_of_live live live (fun _ => by simp [HoldsSound, held, show s.sq.holdInterlock = true from interlock])
      rfl rfl rfl rfl
  case isFalse interlock =>
    refine goes_of_live live (enterRunning_live _) (fun _ => enterRunning_holds rfl (by simpa using interlock)) ?_
      (by rw [enterRunning_au]; rfl) ?_ ?_
    all_goals rw [enterRunning_sq]; rfl

theorem holdEntryMatched_goes (s : State) : ShowGoes s (holdEntryMatched s) := by
  unfold holdEntryMatched
  split
  case h_1 h | h_2 h | h_3 h =>
    exact goes_of_live (by rw [h]; rfl) rfl (fun _ => by simp [HoldsSound]) rfl rfl rfl rfl
  all_goals exact ShowGoes.refl s

theorem noHoldEntryMatched_goes (s : State) : ShowGoes s (noHoldEntryMatched s) := by
  unfold noHoldEntryMatched
  split
  case h_1 held =>
    have live : s.sq.state.live = true := by rw [held]; rfl
    split
    case isTrue host => exact goes_of_live live live (fun _ => by simp [HoldsSound, held, host]) rfl rfl rfl rfl
    case isFalse host => exact goes_of_live live rfl (fun _ => by simp [HoldsSound, host]) rfl rfl rfl rfl
  all_goals exact ShowGoes.refl s

/-! ## Wind-down and faults -/

/-- Entry to wind-down from a live show keeps the rules of the show where the fault record it finds belongs to its kind. -/
theorem goes_of_windDown {s t : State} {kind : WinddownKind} (x : Sequencer) (live : s.sq.state.live = true)
    (sq : t.sq = x.windDown kind) (au : t.au = s.au)
    (record : RecordSound s → if kind = .fault then x.faultRecord.first.isSome = true else x.faultRecord = FaultRecord.empty) :
    ShowGoes s t where
  holds _ := by simp [HoldsSound, sq, Sequencer.windDown]
  record k := by
    have filled := record k
    cases kind <;> simpa [RecordSound, sq, Sequencer.windDown] using filled
  clock k := by
    rw [ClockSound, sq, au, (clockSound_live live).mp k]; rfl
  table _ := by simp [TableSound, sq, Sequencer.windDown]
  empty _ _ := by simp [sq, Sequencer.windDown]
  whole _ := by simp [sq, Sequencer.windDown]

theorem windDown_goes {s : State} (live : s.sq.state.live = true) : ShowGoes s (windDown .normal s) :=
  goes_of_windDown s.sq live (windDown_sq _ _) (windDown_showOnly _ _).au fun k => by
    simpa using (recordSound_live live).mp k

/-- What a fault makes of the sequencer of a live show (R21, R22, R23). -/
theorem takeFault_live_sq {s : State} (cause : FaultCause) (live : s.sq.state.live = true) :
    (takeFault cause s).sq = (fillRecord cause s).sq.windDown .fault := by
  unfold takeFault
  split
  case h_1 h | h_7 h | h_8 h => simp [h, ShowState.live] at live
  all_goals rw [sq_raise, windDown_sq]

theorem takeFault_goes (cause : FaultCause) (s : State) : ShowGoes s (takeFault cause s) := by
  have au := (takeFault_showOnly cause s).au
  by_cases live : s.sq.state.live = true
  · exact goes_of_windDown _ live (takeFault_live_sq cause live) au fun _ => rfl
  · unfold takeFault
    split
    case h_1 idle =>
      exact {
        holds := fun k => by
          have none := holdsSound_clear k (by simp [idle])
          simp [HoldsSound, none]
        record := fun _ => by simp [RecordSound]
        clock := fun k => by simpa [ClockSound, idle, ShowState.resting] using k
        table := id
        empty := fun k _ => k (by rw [idle]; rfl)
        whole := id }
    case h_7 down =>
      split
      case h_1 normal =>
        exact {
          holds := id
          record := fun _ => by simp [RecordSound, raise, fillRecord, lightConversion, down]
          clock := id
          table := id
          empty := id
          whole := id }
      case h_2 fault => exact ⟨⟨id, by simp [RecordSound, countSecondary, down, fault], id, id, id⟩, id⟩
    case h_8 tripped => exact ⟨⟨id, by simp [RecordSound, countSecondary, tripped], id, id, id⟩, id⟩
    all_goals simp_all [ShowState.live]

theorem completeWinddown_goes {s : State} (down : s.sq.state = .winddown) : ShowGoes s (completeWinddown s) where
  holds k := by
    have none := holdsSound_clear k (by simp [down])
    cases kind : s.sq.kind <;> simp [HoldsSound, completeWinddown, voidBurst, WinddownKind.after, kind, none]
  record k := by
    cases kind : s.sq.kind <;> simp_all [RecordSound, completeWinddown, voidBurst, WinddownKind.after]
  clock _ := by
    cases kind : s.sq.kind <;> simp [ClockSound, completeWinddown, voidBurst, WinddownKind.after, kind, ShowState.resting]
  table := id
  empty k _ := k (by rw [down]; rfl)
  whole := id

theorem winddownTest_goes (s : State) : ShowGoes s (winddownTest s) := by
  unfold winddownTest; split
  case isTrue done =>
    simp only [winddownDone, Bool.and_eq_true, decide_eq_true_eq] at done
    obtain ⟨⟨⟨down, -⟩, -⟩, -⟩ := done
    exact completeWinddown_goes down
  case isFalse => exact ShowGoes.refl s

theorem takeFieldPeriod_goes (s : State) : ShowGoes s (takeFieldPeriod s) :=
  (setWu_goes s (waterPeriod s).wu).trans (winddownTest_goes _)

theorem takeColourPeriod_goes (s : State) : ShowGoes s (takeColourPeriod s) := by
  have noted : ShowGoes s (noteColourPeriod (lightPeriod s)) := ShowStands.goes ⟨rfl, rfl, rfl, rfl, rfl, rfl⟩ rfl rfl
  exact noted.trans (winddownTest_goes _)

theorem deferredClosePeriod_goes (v : Fin 192) (s : State) : ShowGoes s (deferredClosePeriod v s) := by
  unfold deferredClosePeriod; split
  · exact takeFieldPeriod_goes s
  · exact ShowGoes.refl s

theorem winddownPeriod_goes (s : State) : ShowGoes s (winddownPeriod s) := by
  unfold winddownPeriod
  repeat' split
  · exact takeFieldPeriod_goes s
  · exact takeColourPeriod_goes s
  · exact ShowGoes.refl s

/-! ## Evaluations -/

theorem handTransition_goes (e : Fin 8) (s : State) : ShowGoes s (handTransition e s) := by
  have raised := raise_goes .interlock s
  unfold handTransition
  dsimp only
  split
  · exact raised.trans (holdEntryMatched_goes _)
  · exact raised.trans (takeFault_goes _ _)
  all_goals exact raised

theorem handTransitions_goes (entries : Byte) (s : State) : ShowGoes s (handTransitions entries s) := by
  unfold handTransitions
  generalize List.finRange 8 = es
  induction es generalizing s with
  | nil => exact ShowGoes.refl s
  | cons e es ih =>
    rw [List.foldl_cons]
    refine ShowGoes.trans ?_ (ih _)
    split
    · exact handTransition_goes e s
    · exact ShowGoes.refl s

theorem handHoldEnd_goes (before : Bool) (s : State) : ShowGoes s (handHoldEnd before s) := by
  unfold handHoldEnd; split
  · exact noHoldEntryMatched_goes s
  · exact ShowGoes.refl s

theorem takeSets_goes (matched latched moved : Byte) (s : State) : ShowGoes s (takeSets matched latched moved s) :=
  ((setGu_goes s _).trans (handTransitions_goes moved _)).trans (handHoldEnd_goes _ _)

theorem evaluateEdge_goes (input : Fin 16) (rising : Bool) (s : State) : ShowGoes s (evaluateEdge input rising s) :=
  takeSets_goes _ _ _ s

theorem evaluateLevels_goes (s : State) : ShowGoes s (evaluateLevels s) := takeSets_goes _ _ _ s

theorem unlatch_goes (s : State) : ShowGoes s (unlatch s) := takeSets_goes _ _ _ s

theorem expireDebounce_goes (input : Fin 16) (s : State) : ShowGoes s (expireDebounce input s) := by
  unfold expireDebounce
  dsimp only
  split
  · exact setGu_goes s _
  · exact (setGu_goes s _).trans (evaluateEdge_goes _ _ _)

theorem finishOperation_goes (name : OpName) (result : CompletionResult) (s : State) :
    ShowGoes s (finishOperation name result s) :=
  ((setLs_goes s _).trans (raise_goes .limit _)).trans (evaluateLevels_goes _)

theorem completeProgramRow_goes (holds : Bool) (s : State) : ShowGoes s (completeProgramRow holds s) := by
  unfold completeProgramRow
  repeat' split
  · exact (setLs_goes s _).trans (finishOperation_goes _ _ _)
  all_goals exact ShowGoes.refl s

theorem completeSetLock_goes (s : State) : ShowGoes s (completeSetLock s) := by
  unfold completeSetLock; split
  · exact (setLs_goes s _).trans (finishOperation_goes _ _ _)
  · exact ShowGoes.refl s

theorem completeEraseAll_goes (s : State) : ShowGoes s (completeEraseAll s) := by
  unfold completeEraseAll; split
  · exact (setLs_goes s _).trans (finishOperation_goes _ _ _)
  · exact ShowGoes.refl s

theorem leaveTripped_goes (s : State) : ShowGoes s (leaveTripped s) := by
  unfold leaveTripped; split
  case isTrue h =>
    simp only [inState, Bool.and_eq_true, decide_eq_true_eq] at h
    obtain ⟨tripped, -⟩ := h
    exact {
      holds := fun k => by have none := holdsSound_clear k (by simp [tripped]); simp [HoldsSound, none]
      record := fun _ => by simp [RecordSound]
      clock := fun k => by simpa [ClockSound, tripped, ShowState.resting] using k
      table := id
      empty := fun k _ => k (by rw [tripped]; rfl)
      whole := id }
  case isFalse => exact ShowGoes.refl s

/-! ## START -/

theorem startShow_goes (s : State) : ShowGoes s (startShow s) := by
  unfold startShow
  dsimp only
  refine ShowGoes.trans ?_ (primingTest_goes _)
  exact {
    holds := fun _ => by simp [HoldsSound, Sequencer.begin]
    record := fun _ => by simp [RecordSound, Sequencer.begin]
    clock := fun _ => rfl
    table := id
    empty := fun _ dead => by simp [Sequencer.begin, ShowState.live] at dead
    whole := id }

end Sys2Proof.Machine
end

section
/-! Proofs: the rules of the show at an examination of the head, at an advance and at a frame period. -/

namespace Sys2Proof.Machine

/-! ## Releases -/

/-- The table after an entry at its front is taken keeps its order and its bound (R57, R58, R62). -/
theorem takeEntry_goes {e : ReleaseEntry} {rest : List ReleaseEntry} {s : State} (front : s.sq.table = e :: rest) :
    ShowGoes s (takeEntry e rest s) where
  toShowKeeps := ShowStands.keeps ⟨rfl, rfl, rfl, rfl, rfl, rfl⟩
    (fun k => by
      rw [TableSound, front, List.pairwise_cons, List.length_cons] at k
      exact ⟨by simp only [takeEntry, sq_setSq]; omega, k.2.2⟩)
    (fun _ none => by simp [front] at none)
  whole := id

/-- A delivery other than END leaves the sequencer, but for the last mark. -/
theorem deliver_sq {a : Action} (h : a ≠ .endShow) (s : State) :
    (deliver a s).sq = { s.sq with lastMark := (deliver a s).sq.lastMark } := by
  unfold deliver
  split
  · rfl
  · rw [wantClose_frame]; rfl
  · rfl
  · rfl
  · rw [releaseFollow_frame]; rfl
  · unfold releaseMark; dsimp only; split <;> rfl
  · exact absurd rfl h

/-- A delivery moves no pump's output (R96, R97, R100). -/
theorem deliver_output (a : Action) (s : State) : (deliver a s).wu.output = s.wu.output := by
  unfold deliver
  split
  · rfl
  · exact (wantClose_speeds _ s).2.1
  · rfl
  · rfl
  · rw [releaseFollow_frame]; rfl
  · unfold releaseMark; dsimp only; split <;> rfl
  · rw [windDown_wu]; exact (waterWinddown_spec s).2.2.1

theorem deliver_goes {a : Action} {s : State} (live : s.sq.state.live = true) : ShowGoes s (deliver a s) := by
  have au := (deliver_showOnly a s).au
  by_cases h : a = .endShow
  · subst h; exact windDown_goes live
  · have sq := deliver_sq h s
    exact ShowStands.goes ⟨by rw [sq], by rw [sq], by rw [sq], by rw [sq], by rw [sq], by rw [au]⟩ (by rw [sq]) (by rw [sq])

/-- The releases of a live show keep the rules of the show, and leave it in its state unless an END ended them. -/
theorem releaseDue_goes {es : List ReleaseEntry} {s : State} (table : s.sq.table = es)
    (live : s.sq.state.live = true) :
    ShowGoes s (releaseDue es s).state ∧
    ((releaseDue es s).ended = false → (releaseDue es s).state.sq.state = s.sq.state) ∧
    ((releaseDue es s).ended = true → (releaseDue es s).state.sq.runDivided = false) := by
  induction es generalizing s with
  | nil => exact ⟨ShowGoes.refl s, fun _ => rfl, fun h => by cases h⟩
  | cons e rest ih =>
    have delivered : ShowGoes s (deliver e.action (takeEntry e rest s)) :=
      (takeEntry_goes table).trans (deliver_goes live)
    unfold releaseDue
    dsimp only
    split
    · split
      case isTrue last =>
        refine ⟨delivered, (fun h => by cases h), fun _ => ?_⟩
        rw [last, deliver, windDown_sq]; rfl
      case isFalse other =>
        have sq := deliver_sq other (takeEntry e rest s)
        have again := ih (s := deliver e.action (takeEntry e rest s)) (by rw [sq]; rfl) (by rw [sq]; exact live)
        exact ⟨delivered.trans again.1, fun h => (again.2.1 h).trans (by rw [sq]; rfl), again.2.2⟩
    · exact ⟨ShowGoes.refl s, fun _ => rfl, fun h => by cases h⟩

/-! ## Examination of the head -/

theorem expand_goes {s : State} {r : CueRecord} {acts : List Action} (live : s.sq.state.live = true)
    (room : hasRoom s acts.length = true) : ShowGoes s (s.setSq (s.sq.expand r acts)) where
  toShowKeeps := ShowStands.keeps ⟨rfl, rfl, rfl, rfl, rfl, rfl⟩
    (fun k => ⟨by
        have fits := (hasRoom_iff s _ k.1).mp room
        simpa only [sq_setSq, Sequencer.expand, length_insertEntries, List.length_map] using fits,
      inOrder_insertEntries _ k.2⟩)
    (fun dead => by simp [live] at dead)
  whole := id

theorem popHead_goes (rest : List CueRecord) (s : State) : ShowGoes s (popHead rest s) :=
  ShowStands.goes ⟨rfl, rfl, rfl, rfl, rfl, rfl⟩ rfl rfl

theorem settleHead_goes (r : CueRecord) (rest : List CueRecord) {s : State} (live : s.sq.state.live = true) :
    ShowGoes s (settleHead r rest s).state := by
  unfold settleHead
  split
  · exact ShowStands.goes ⟨rfl, rfl, rfl, rfl, rfl, rfl⟩ rfl rfl
  · split
    case isTrue room => exact (expand_goes live room).trans (popHead_goes rest _)
    case isFalse => exact ShowGoes.refl s

theorem examineRecord_goes (r : CueRecord) (rest : List CueRecord) {s : State} (live : s.sq.state.live = true) :
    ShowGoes s (examineRecord r rest s).state := by
  have matching : ShowGoes s (sequenceMatch r s) := ShowStands.goes ⟨rfl, rfl, rfl, rfl, rfl, rfl⟩ rfl rfl
  unfold examineRecord
  repeat' split
  · exact settleHead_goes r rest live
  · exact ShowGoes.refl s
  · exact matching.trans (settleHead_goes r rest live)
  · exact ShowStands.goes ⟨rfl, rfl, rfl, rfl, rfl, rfl⟩ rfl rfl

/-- The examination of a record leaves the show state and a divided run as they were. -/
theorem examineRecord_state (r : CueRecord) (rest : List CueRecord) (s : State) :
    (examineRecord r rest s).state.sq.state = s.sq.state ∧
    (examineRecord r rest s).state.sq.runDivided = s.sq.runDivided := by
  have settled : ∀ t : State, (settleHead r rest t).state.sq.state = t.sq.state ∧
      (settleHead r rest t).state.sq.runDivided = t.sq.runDivided := by
    intro t; unfold settleHead; repeat' split
    all_goals exact ⟨rfl, rfl⟩
  unfold examineRecord
  repeat' split
  · exact settled s
  · exact ⟨rfl, rfl⟩
  · exact settled (sequenceMatch r s)
  · exact ⟨rfl, rfl⟩

/-- A head that leaves leaves the records behind it, the first of them unexamined (R50). -/
theorem examineRecord_left {r : CueRecord} {rest : List CueRecord} {s : State}
    (h : (examineRecord r rest s).left = true) :
    (examineRecord r rest s).state.fu.cueBuffer = rest ∧ (examineRecord r rest s).state.sq.headAccepted = false := by
  have settled : ∀ t : State, (settleHead r rest t).left = true →
      (settleHead r rest t).state.fu.cueBuffer = rest ∧ (settleHead r rest t).state.sq.headAccepted = false := by
    intro t; unfold settleHead
    split
    · exact fun _ => ⟨rfl, rfl⟩
    · split
      · exact fun _ => ⟨rfl, rfl⟩
      · exact fun k => by cases k
  revert h
  unfold examineRecord
  split
  · exact settled s
  · split
    · exact fun k => by cases k
    · split
      · exact settled _
      · exact fun k => by cases k

theorem musicOver_iff (s : State) : musicOver s = true ↔ s.fu.final = true ∧ s.fu.audioFetch = s.fu.audioMark := by
  simp [musicOver]

/-- A frame period that plays takes a frame or finds the ring drained exactly when there is one or the other. -/
theorem playOutcome_advances (s : State) :
    (playOutcome s = .frameTaken ∨ playOutcome s = .drainedSilence) ↔
      (s.au.fifo ≠ [] ∨ (s.fu.final = true ∧ s.fu.audioFetch = s.fu.audioMark)) := by
  rw [← musicOver_iff]
  unfold playOutcome
  cases s.au.fifo <;> cases musicOver s <;> simp

theorem resumeTest_iff (s : State) :
    resumeTest s = true ↔ 64 ≤ s.au.fifo.length ∨ (s.fu.final = true ∧ s.fu.audioFetch = s.fu.audioMark) := by
  simp [resumeTest, musicOver_iff]

/-- A STARVED show that passes its resume test has a frame to take or has drained its ring. -/
theorem resumeTest_plays {s : State} (h : resumeTest s = true) :
    playOutcome s = .frameTaken ∨ playOutcome s = .drainedSilence := by
  rw [playOutcome_advances]
  refine ((resumeTest_iff s).mp h).imp_left fun long none => ?_
  simp [none] at long

/-- A frame period advances exactly a RUNNING show that plays and a STARVED one that passes its resume test (R7, R8, R10). -/
theorem periodAdvances_iff (s : State) :
    periodAdvances s = true ↔ s.au.clock.isSome = true ∧ s.sq.position ≠ 0xFFFFFFFF ∧
      ((s.sq.state = .running ∧ (s.au.fifo ≠ [] ∨ (s.fu.final = true ∧ s.fu.audioFetch = s.fu.audioMark))) ∨
        (s.sq.state = .starved ∧ (64 ≤ s.au.fifo.length ∨ (s.fu.final = true ∧ s.fu.audioFetch = s.fu.audioMark)))) := by
  rw [← playOutcome_advances, ← resumeTest_iff]
  have plays := resumeTest_plays (s := s)
  unfold periodAdvances periodOutcome
  cases state : s.sq.state
  case running => cases playOutcome s <;> simp
  case starved => cases test : resumeTest s <;> cases out : playOutcome s <;> simp_all
  all_goals simp

/-- An advance waits exactly when the next command brings one. -/
theorem advanceWaits_iff (s : State) : advanceWaits s = true ↔ AdvanceNext s := by
  unfold advanceWaits
  split
  case h_1 next => rw [periodAdvances_iff]; simp only [AdvanceNext, next]; simp
  case h_2 next =>
    rw [Bool.and_eq_true, periodAdvances_iff, decide_eq_true_eq]; simp only [AdvanceNext, next]
    constructor
    · rintro ⟨starved, clock, position, ⟨running, -⟩ | ⟨-, passes⟩⟩
      · simp [starved] at running
      · exact ⟨clock, position, .inr ⟨starved, passes, .inr trivial⟩⟩
    · rintro ⟨clock, position, ⟨-, -, other⟩ | ⟨starved, passes, -⟩⟩
      · simp at other
      · exact ⟨starved, clock, position, .inr ⟨starved, passes⟩⟩
  case h_3 frame resume =>
    simp only [Bool.false_eq_true, false_iff]
    rintro ⟨-, -, ⟨-, -, next⟩ | ⟨-, -, next | next⟩⟩
    · exact frame next
    · exact frame next
    · exact resume next

/-- A run of a live show keeps the rules of the show, and is divided only by the advance that comes next (R51). -/
theorem examineRun_runs {rs : List CueRecord} {s : State} (live : s.sq.state.live = true) :
    ShowRuns s (examineRun rs s) := by
  induction rs generalizing s with
  | nil => exact (ShowGoes.refl s).runs
  | cons r rest ih =>
    have one := examineRecord_goes r rest live
    have stands := examineRecord_state r rest s
    have counted : ShowGoes (examineRecord r rest s).state (countMeeting (examineRecord r rest s).state) :=
      goes_of_beside rfl rfl
    unfold examineRun
    dsimp only
    split
    · exact one.runs
    · next left =>
      have after := examineRecord_left (by simpa using left)
      split
      case isTrue meets =>
        simp only [runMeets, Bool.and_eq_true, Bool.not_eq_true', List.isEmpty_eq_false_iff] at meets
        obtain ⟨⟨behind, free⟩, waits⟩ := meets
        split
        · refine ⟨one.toShowKeeps.trans (ShowStands.keeps ⟨rfl, rfl, rfl, rfl, rfl, rfl⟩ id fun _ => id), fun _ _ => ?_⟩
          exact ⟨by rw [← live, ← stands.1]; rfl, after.2, free, by rw [← after.1] at behind; exact behind,
            (advanceWaits_iff _).mp waits⟩
        · exact (one.trans counted).thenRuns (ih (by rw [← live, ← stands.1]; rfl))
      case isFalse => exact one.thenRuns (ih (by rw [stands.1]; exact live))

theorem examineHead_runs (s : State) : ShowRuns s (examineHead s) := by
  unfold examineHead; split
  case isTrue live => exact examineRun_runs live
  case isFalse => exact (ShowGoes.refl s).runs

theorem examineHead_state (s : State) : (examineHead s).sq.state = s.sq.state := by
  have run : ∀ rs (t : State), (examineRun rs t).sq.state = t.sq.state := by
    intro rs
    induction rs with
    | nil => exact fun _ => rfl
    | cons r rest ih =>
      intro t
      have one := (examineRecord_state r rest t).1
      unfold examineRun; dsimp only
      repeat' split
      · exact one
      · exact one
      · exact (ih _).trans one
      · exact (ih _).trans one
  unfold examineHead; split
  · exact run _ s
  · rfl

theorem retryHead_state (s : State) : (retryHead s).sq.state = s.sq.state := by
  unfold retryHead; split
  · exact examineHead_state s
  · rfl

theorem resumeRun_state (s : State) : (resumeRun s).sq.state = s.sq.state := by
  unfold resumeRun; split
  · exact examineHead_state _
  · rfl

theorem retryHead_runs (s : State) : ShowRuns s (retryHead s) := by
  unfold retryHead; split
  · exact examineHead_runs s
  · exact (ShowGoes.refl s).runs

/-! ## The advance -/

/-- A run that goes on keeps the rules of the show, and whatever it was it is divided again only by the advance that comes
next. -/
theorem resumeRun_keeps (s : State) : ShowKeeps s (resumeRun s) ∧ RunSound (resumeRun s) := by
  unfold resumeRun; split
  · have cleared : ShowKeeps s (s.setSq { s.sq with runDivided := false }) :=
      ShowStands.keeps ⟨rfl, rfl, rfl, rfl, rfl, rfl⟩ id fun _ => id
    have run := examineHead_runs (s.setSq { s.sq with runDivided := false })
    exact ⟨cleared.trans run.toShowKeeps, run.run rfl⟩
  case isFalse whole => exact ⟨ShowKeeps.refl s, runSound_whole (by simpa using whole)⟩

theorem examineAfter_keeps (r : Released) :
    ShowKeeps r.state (examineAfter r) ∧ RunSound (examineAfter r) ∧ (examineAfter r).sq.state = r.state.sq.state := by
  unfold examineAfter
  split
  · exact ⟨(resumeRun_keeps r.state).1, (resumeRun_keeps r.state).2, resumeRun_state _⟩
  · next whole =>
    have whole : r.state.sq.runDivided = false := by simpa using whole
    split
    · exact ⟨(retryHead_runs _).toShowKeeps, (retryHead_runs _).run whole, retryHead_state _⟩
    · exact ⟨ShowKeeps.refl _, runSound_whole whole, rfl⟩

theorem afterReleases_keeps {r : Released} (live : r.ended = false → r.state.sq.state.live = true)
    (ended : r.ended = true → r.state.sq.runDivided = false) :
    ShowKeeps r.state (afterReleases r) ∧ RunSound (afterReleases r) := by
  obtain ⟨keeps, run, state⟩ := examineAfter_keeps r
  unfold afterReleases
  split
  case isTrue done => exact ⟨ShowKeeps.refl _, runSound_whole (ended done)⟩
  case isFalse going =>
    split
    · have held := holdForHost_goes (by rw [state]; exact live (by simpa using going))
      have resumed := resumeRun_keeps (holdForHost (examineAfter r))
      exact ⟨(keeps.trans held.toShowKeeps).trans resumed.1, resumed.2⟩
    · exact ⟨keeps, run⟩

/-- The advance of a live show keeps the rules of the show, and leaves a run divided only by the advance that comes next. -/
theorem advance_keeps {s : State} (live : s.sq.state.live = true) : ShowKeeps s (advance s) ∧ RunSound (advance s) := by
  unfold advance
  split
  · refine ⟨(takeFault_goes .positionLimit s).toShowKeeps, runSound_whole ?_⟩
    rw [takeFault_live_sq _ live]; rfl
  · have moved : ShowKeeps s (s.setSq { s.sq with position := s.sq.position + 1 }) :=
      ShowStands.keeps ⟨rfl, rfl, rfl, rfl, rfl, rfl⟩ id fun _ => id
    have released := releaseDue_goes (s := s.setSq { s.sq with position := s.sq.position + 1 }) rfl live
    have after := afterReleases_keeps (fun h => by rw [released.2.1 h]; exact live) released.2.2
    exact ⟨(moved.trans released.1.toShowKeeps).trans after.1, after.2⟩

end Sys2Proof.Machine
end

section
/-! Proofs: the rules of the show at a frame period, at the ends of bursts, at the commands, and at every step. -/

namespace Sys2Proof.Machine

/-! ## Monitors -/

/-- Only the monitors and the scales of the light groups may differ. -/
structure MonitorsOnly (s t : State) : Prop extends MusicOnly s t where
  au : t.au = { s.au with monitors := t.au.monitors }
  groups : ∀ g : Fin 64, t.lu.groups[g] = { s.lu.groups[g] with scale := t.lu.groups[g].scale }

theorem MonitorsOnly.refl (s : State) : MonitorsOnly s s := ⟨MusicOnly.refl s, rfl, fun _ => rfl⟩

theorem MonitorsOnly.trans {s t u : State} (h : MonitorsOnly s t) (k : MonitorsOnly t u) : MonitorsOnly s u :=
  ⟨h.toMusicOnly.trans k.toMusicOnly, by rw [k.au, h.au], fun g => by rw [k.groups g, h.groups g]⟩

theorem takePeak_scales (c : Fin 4) (peak : BitVec 15) (s : State) (g : Fin 64) :
    (takePeak c peak s).lu.groups[g] = { s.lu.groups[g] with scale := (takePeak c peak s).lu.groups[g].scale } := by
  have taken : (takePeak c peak s).lu.groups[g] = s.lu.groups[g].takePeak c peak := groups_mapGroups _ _ g
  rw [taken, LightGroup.takePeak]
  split <;> rfl

theorem setMonitor_monitorsOnly (c : Fin 4) (m : Monitor) (s : State) : MonitorsOnly s (setMonitor c m s) :=
  ⟨⟨rfl, rfl, rfl, rfl, rfl, rfl, rfl, rfl, rfl, rfl, rfl⟩, rfl, fun _ => rfl⟩

theorem takePeak_monitorsOnly (c : Fin 4) (peak : BitVec 15) (s : State) : MonitorsOnly s (takePeak c peak s) :=
  ⟨⟨rfl, rfl, rfl, rfl, rfl, rfl, rfl, rfl, rfl, rfl, rfl⟩, rfl, takePeak_scales c peak s⟩

theorem endWindow_monitorsOnly (c : Fin 4) (s : State) : MonitorsOnly s (endWindow c s) := by
  unfold endWindow; dsimp only; split
  · exact (setMonitor_monitorsOnly c _ s).trans (takePeak_monitorsOnly c _ _)
  · exact MonitorsOnly.refl s

theorem feedMonitor_monitorsOnly (samples : Vector Half 4) (c : Fin 4) (s : State) :
    MonitorsOnly s (feedMonitor samples c s) := by
  unfold feedMonitor; dsimp only; split
  · exact (setMonitor_monitorsOnly c _ s).trans (endWindow_monitorsOnly c _)
  · exact MonitorsOnly.refl s

theorem feedMonitors_monitorsOnly (samples : Vector Half 4) (s : State) : MonitorsOnly s (feedMonitors samples s) :=
  (((feedMonitor_monitorsOnly samples 0 s).trans (feedMonitor_monitorsOnly samples 1 _)).trans
    (feedMonitor_monitorsOnly samples 2 _)).trans (feedMonitor_monitorsOnly samples 3 _)

theorem muteChannel_monitorsOnly (old new : BitVec 4) (c : Fin 4) (s : State) :
    MonitorsOnly s (muteChannel old new c s) := by
  unfold muteChannel; repeat' split
  · exact (setMonitor_monitorsOnly c _ s).trans (takePeak_monitorsOnly c _ _)
  · exact setMonitor_monitorsOnly c _ s
  · exact MonitorsOnly.refl s

theorem MonitorsOnly.unmoved {s t : State} (h : MonitorsOnly s t) : ShowUnmoved s t :=
  ⟨h.sq, by rw [h.au], by rw [h.au], by rw [FetchKept, h.fu], h.pending⟩

theorem takeMute_unmoved (new : BitVec 4) (s : State) : ShowUnmoved s (takeMute new s) := by
  have replaced : ShowUnmoved s (s.setAu { s.au with muteSet := new }) := ⟨rfl, rfl, rfl, rfl, rfl⟩
  exact (((replaced.trans (muteChannel_monitorsOnly _ new 0 _).unmoved).trans
    (muteChannel_monitorsOnly _ new 1 _).unmoved).trans
    (muteChannel_monitorsOnly _ new 2 _).unmoved).trans (muteChannel_monitorsOnly _ new 3 _).unmoved

/-! ## The frame period -/

/-- What a frame period has reported, before its frame is emitted. -/
def reported (s : State) : State := takeReport (periodOutcome s) (takeFrame s)

/-- A running frame clock's period is its report, the frame shifted out and the monitors fed (R73). -/
theorem playPeriod_runs {s : State} (h : s.au.clock.isSome = true) :
    playPeriod s = feedMonitors (emitted (reported s) (periodFrame s))
      (shiftOut (emitted (reported s) (periodFrame s)) (reported s)) := by
  rw [playPeriod, if_pos h]; rfl

/-- With the frame clock stopped there is no frame period (R72). -/
theorem playPeriod_stopped {s : State} (h : s.au.clock = none) : playPeriod s = s := by simp [playPeriod, h]

theorem shiftOut_unmoved (samples : Vector Half 4) (s : State) : ShowUnmoved s (shiftOut samples s) :=
  ⟨rfl, rfl, rfl, rfl, rfl⟩

theorem playPeriod_unmoved {s : State} (h : s.au.clock.isSome = true) : ShowUnmoved (reported s) (playPeriod s) := by
  rw [playPeriod_runs h]
  exact (shiftOut_unmoved _ _).trans (feedMonitors_monitorsOnly _ _).unmoved

theorem takeFrame_goes (s : State) : ShowGoes s (takeFrame s) := by
  have sq : (takeFrame s).sq = s.sq := by unfold takeFrame; split <;> rfl
  have clock : (takeFrame s).au.clock = s.au.clock := by unfold takeFrame; split <;> rfl
  exact ShowStands.goes ⟨by rw [sq], by rw [sq], by rw [sq], by rw [sq], by rw [sq], clock⟩ (by rw [sq]) (by rw [sq])

theorem takeFrame_sq (s : State) : (takeFrame s).sq = s.sq := by unfold takeFrame; split <;> rfl

theorem starveLimitTest_goes (s : State) : ShowGoes s (starveLimitTest s) := by
  unfold starveLimitTest; split
  · exact takeFault_goes _ s
  · exact ShowGoes.refl s

/-- A move between RUNNING and STARVED leaves the holds as they are. -/
theorem playing_goes {s t : State} (before : s.sq.state = .running ∨ s.sq.state = .starved)
    (after : t.sq.state = .running ∨ t.sq.state = .starved) (host : t.sq.holdHost = s.sq.holdHost)
    (interlock : t.sq.holdInterlock = s.sq.holdInterlock) (record : t.sq.faultRecord = s.sq.faultRecord)
    (clock : t.au.clock = s.au.clock) (table : t.sq.table = s.sq.table) (run : t.sq.runDivided = s.sq.runDivided) :
    ShowGoes s t := by
  refine goes_of_live ?_ ?_ (fun k => ?_) record clock table run
  · rcases before with h | h <;> rw [h] <;> rfl
  · rcases after with h | h <;> rw [h] <;> rfl
  · have none := holdsSound_clear k (by rcases before with h | h <;> simp [h])
    rw [HoldsSound, host, interlock]
    rcases after with h | h <;> simp [h, none]

theorem starve_goes {s : State} (h : s.sq.state = .running) : ShowGoes s (starve s) :=
  playing_goes (.inl h) (.inr rfl) rfl rfl rfl rfl rfl rfl

theorem resumed_goes {s : State} (h : s.sq.state = .starved) : ShowGoes s (setShow .running s) :=
  playing_goes (.inr h) (.inl rfl) rfl rfl rfl rfl rfl rfl

theorem countStarved_goes (s : State) : ShowGoes s (countStarved s) := by
  have counted : ShowGoes s (s.setSq { s.sq with starveCount := s.sq.starveCount + 1 }) :=
    ShowStands.goes ⟨rfl, rfl, rfl, rfl, rfl, rfl⟩ rfl rfl
  exact counted.trans (starveLimitTest_goes _)

/-- An advance leaves a run divided only by the advance that comes next, whatever run it finds divided (R51). -/
theorem takeReport_advances {o : PeriodOutcome} {s : State} (advances : o = .frameTaken ∨ o = .drainedSilence)
    (playing : s.sq.state = .running ∨ s.sq.state = .starved) :
    ShowKeeps s (takeReport o s) ∧ RunSound (takeReport o s) := by
  rcases playing with h | h
  · have same : takeReport o s = advance s := by rcases advances with rfl | rfl <;> simp [takeReport, h]
    rw [same]; exact advance_keeps (by rw [h]; rfl)
  · have same : takeReport o s = advance (setShow .running s) := by
      rcases advances with rfl | rfl <;> simp [takeReport, h]
    have moved := advance_keeps (s := setShow .running s) rfl
    rw [same]; exact ⟨(resumed_goes h).toShowKeeps.trans moved.1, moved.2⟩

theorem takeReport_runs (o : PeriodOutcome) (s : State) : ShowRuns s (takeReport o s) := by
  have moves : ∀ k : s.sq.state = .running ∨ s.sq.state = .starved, (o = .frameTaken ∨ o = .drainedSilence) →
      ShowRuns s (takeReport o s) := fun k a =>
    ⟨(takeReport_advances a k).1, fun _ => (takeReport_advances a k).2⟩
  cases state : s.sq.state
  case running =>
    cases o
    case frameTaken => exact moves (.inl state) (.inl rfl)
    case drainedSilence => exact moves (.inl state) (.inr rfl)
    case empty => simpa only [takeReport, state] using (starve_goes state).runs
    case silentPeriod => simpa only [takeReport, state] using (ShowGoes.refl s).runs
  case starved =>
    cases o
    case frameTaken => exact moves (.inr state) (.inl rfl)
    case drainedSilence => exact moves (.inr state) (.inr rfl)
    case empty => simpa only [takeReport, state] using (countStarved_goes s).runs
    case silentPeriod => simpa only [takeReport, state] using (ShowGoes.refl s).runs
  all_goals cases o <;> simpa only [takeReport, state] using (ShowGoes.refl s).runs

theorem playPeriod_showRuns (s : State) : ShowRuns s (playPeriod s) := by
  by_cases clock : s.au.clock.isSome = true
  · exact ((takeFrame_goes s).thenRuns (takeReport_runs _ _)).thenUnmoved (playPeriod_unmoved clock)
  · rw [playPeriod_stopped (by simpa using clock)]; exact (ShowGoes.refl s).runs

/-- A frame period that brings an advance leaves a run divided only by the next (R51). -/
theorem playPeriod_runSound {s : State} (h : periodAdvances s = true) : RunSound (playPeriod s) := by
  obtain ⟨clock, -, playing⟩ := (periodAdvances_iff s).mp h
  have advances : periodOutcome s = .frameTaken ∨ periodOutcome s = .drainedSilence := by
    rw [periodAdvances] at h
    cases out : periodOutcome s <;> simp_all
  have state : (takeFrame s).sq.state = .running ∨ (takeFrame s).sq.state = .starved := by
    rw [takeFrame_sq]; exact playing.imp And.left And.left
  exact (playPeriod_unmoved clock).runSound (takeReport_advances advances state).2

theorem resumePeriod_showRuns (s : State) : ShowRuns s (resumePeriod s) := by
  unfold resumePeriod; split
  · exact playPeriod_showRuns s
  · exact (ShowGoes.refl s).runs

/-! ## Bursts and marks -/

theorem raiseSpace_goes (crossed : Bool) (s : State) : ShowGoes s (raiseSpace crossed s) := by
  unfold raiseSpace; split
  · exact raise_goes .space s
  · exact ShowGoes.refl s

theorem completeCue_runs (slot : Fin Config.cueSlots) (s : State) : ShowRuns s (completeCue slot s) := by
  unfold completeCue
  dsimp only
  split
  · exact ((setFu_goes s _).trans (raiseSpace_goes _ _)).thenRuns (examineHead_runs _)
  · exact ((setFu_goes s _).trans (raiseSpace_goes _ _)).runs

theorem setFifo_goes (s : State) (fifo : List Frame) : ShowGoes s (s.setAu { s.au with fifo := fifo }) :=
  ShowStands.goes ⟨rfl, rfl, rfl, rfl, rfl, rfl⟩ rfl rfl

theorem completeAudio_goes (slot : Fin Config.audioSlots) (two : Bool) (s : State) :
    ShowGoes s (completeAudio slot two s) := by
  unfold completeAudio
  exact (((setFu_goes s _).trans (setFifo_goes _ _)).trans (raiseSpace_goes _ _)).trans (primingTest_goes _)

theorem endBurst_runs (s : State) : ShowRuns s (endBurst s) := by
  have freed := setPu_goes s { s.pu with port := .free }
  unfold endBurst completeBurst
  split
  · dsimp only
    split
    · exact freed.runs
    · split
      · exact freed.thenRuns (completeCue_runs _ _)
      · exact (freed.trans (completeAudio_goes _ _ _)).runs
  all_goals exact (ShowGoes.refl s).runs

theorem writeCueMark_goes (value : Word) (s : State) : ShowGoes s (writeCueMark value s) := by
  unfold writeCueMark; split
  · exact setFu_goes s _
  · exact (setFu_goes s _).trans (raise_goes .cue _)

theorem writeAudioMark_goes (value : Word) (s : State) : ShowGoes s (writeAudioMark value s) := by
  unfold writeAudioMark; split
  · exact (setFu_goes s _).trans (primingTest_goes _)
  · exact (setFu_goes s _).trans (raise_goes .cue _)

/-! ## Show commands -/

theorem stateThenArg_accepted {stateOk argOk : Bool} (h : stateThenArg stateOk argOk = .accepted) : stateOk = true := by
  cases stateOk
  · cases h
  · rfl

theorem takeResync_runs (s : State) : ShowRuns s (takeResync s) := by
  unfold takeResync; dsimp only; split
  · exact (setFu_goes s _).runs
  · exact (setFu_goes s _).thenRuns (examineHead_runs _)

/-- An accepted show command keeps the rules of the show. -/
theorem ShowCommand.act_runs (c : ShowCommand) {s : State} (h : c.outcome s = .accepted) : ShowRuns s (c.act s) := by
  have quiet : ∀ t : State, t.au.clock = s.au.clock → t.sq = { s.sq with
      lateCount := t.sq.lateCount, discardedCount := t.sq.discardedCount, cueErrorCount := t.sq.cueErrorCount
      headAccepted := t.sq.headAccepted } → ShowRuns s t := fun t clock sq =>
    (ShowStands.goes ⟨by rw [sq], by rw [sq], by rw [sq], by rw [sq], by rw [sq], clock⟩ (by rw [sq]) (by rw [sq])).runs
  cases c
  case start => exact (startShow_goes s).runs
  case stop => exact (windDown_goes (stateThenArg_accepted h)).runs
  case hold => exact (takeHold_goes (stateThenArg_accepted h)).runs
  case step =>
    have admitted := stateThenArg_accepted h
    simp only [inState, Bool.and_eq_true, decide_eq_true_eq, Bool.not_eq_true'] at admitted
    obtain ⟨⟨held, -⟩, interlock⟩ := admitted
    exact (takeStep_goes held interlock).runs
  case proceed => exact (takeProceed_goes (by simpa [inState] using stateThenArg_accepted h)).runs
  case cueResync => exact takeResync_runs s
  case releaseInterlocks => exact ((unlatch_goes s).trans (leaveTripped_goes _)).runs
  case mute => exact (takeMute_unmoved _ s).goes.runs
  case ambient => exact (setLu_goes s _).runs
  case spaceTriggers => exact (setFu_goes s _).runs
  case ringReset => exact quiet _ rfl rfl
  case monitor => exact quiet _ rfl rfl
  case clearCounts => exact quiet _ rfl rfl

theorem recordResult_unmoved (code : Word) (o : CommandOutcome) (s : State) : ShowUnmoved s (recordResult code o s) :=
  ⟨rfl, rfl, rfl, rfl, rfl⟩

theorem takeCommand_runs (code : Word) (c : ShowCommand) (s : State) :
    ShowRuns s (takeCommand code (c.outcome s) c.act s) := by
  have result := recordResult_unmoved code (c.outcome s)
  unfold takeCommand; split
  · exact (ShowCommand.act_runs c ‹_›).thenUnmoved (result _)
  · exact (result s).goes.runs

theorem takeShowCommand_runs (code : Word) (s : State) : ShowRuns s (takeShowCommand code s) := by
  unfold takeShowCommand; split
  · exact takeCommand_runs code _ s
  · exact (recordResult_unmoved code .refusedArg s).goes.runs

/-! ## Written words -/

theorem takeLimitCommand_goes (w : Word) (progEn : Bool) (s : State) : ShowGoes s (takeLimitCommand w progEn s) :=
  setLs_goes s _

theorem takeArg_goes (i : Fin 3) (value : Word) (s : State) : ShowGoes s (takeArg i value s) := by
  unfold takeArg; split <;> exact goes_of_beside rfl rfl

theorem captureStaging_goes (i : Fin 16) (value : Word) (s : State) : ShowGoes s (captureStaging i value s) := by
  unfold captureStaging; split
  · exact ShowGoes.refl s
  · exact setLs_goes s _

theorem takeEnable_goes (value : Word) (s : State) : ShowGoes s (takeEnable value s) := goes_of_beside rfl rfl

theorem takeClear_goes (value : Word) (s : State) : ShowGoes s (takeClear value s) := goes_of_beside rfl rfl

theorem captureFull_runs (offset : Nat) (value : Word) (progEn : Bool) (s : State) :
    ShowRuns s (captureFull offset value progEn s) := by
  unfold captureFull
  repeat' split
  · exact takeShowCommand_runs value s
  · exact (takeArg_goes 0 value s).runs
  · exact (takeArg_goes 1 value s).runs
  · exact (takeArg_goes 2 value s).runs
  · exact (writeCueMark_goes value s).runs
  · exact (writeAudioMark_goes value s).runs
  · exact (takeLimitCommand_goes value progEn s).runs
  · exact (takeEnable_goes value s).runs
  · exact (takeClear_goes value s).runs
  · exact (captureStaging_goes _ value s).runs
  · exact (ShowGoes.refl s).runs

theorem captureWord_runs (w : BusWrite) (progEn : Bool) (s : State) : ShowRuns s (captureWord w progEn s) := by
  unfold captureWord
  repeat' split
  · exact captureFull_runs _ _ _ s
  · exact (recordResult_unmoved 0 .partialWrite s).goes.runs
  · exact (ShowGoes.refl s).runs
  · exact (ShowGoes.refl s).runs

theorem pushWord_unmoved (w : BusWrite) (refused : Bool) (s : State) : ShowUnmoved s (pushWord w refused s) := by
  rw [pushWord_frame]; exact ⟨rfl, rfl, rfl, rfl, rfl⟩

theorem decideWord_runs (w : BusWrite) (progEn : Bool) (s : State) : ShowRuns s (decideWord w progEn s) := by
  unfold decideWord
  repeat' split
  · exact (pushWord_unmoved w false s).goes.runs
  · exact (goes_of_beside (by rw [refuseWord_frame]; rfl) (by rw [refuseWord_frame]; rfl)).runs
  · exact (captureWord_runs w progEn s).thenUnmoved (pushWord_unmoved w false _)

/-- A captured word keeps the rules of the show as its capture does. -/
theorem captured_runs {offset : Nat} {value : Word} {burst : Bool} {capture : State → State} {s : State}
    (h : ShowRuns s (capture s)) : ShowRuns s (captured offset value burst capture s) := by
  unfold captured; dsimp only; split
  · exact (pushWord_unmoved _ _ _).goes.runs
  · exact h.thenUnmoved (pushWord_unmoved _ _ _)

theorem presentRead_goes (r : BusRead) (s : State) : ShowGoes s (presentRead r s) := by
  rw [presentRead_frame]; exact goes_of_beside rfl rfl

theorem grantPort_goes (first : Bool) (s : State) : ShowGoes s (grantPort first s) := by
  rw [grantPort_frame]; exact goes_of_beside rfl rfl

theorem endTransaction_goes (s : State) : ShowGoes s (endTransaction s) := by
  rw [endTransaction_frame]; exact setPu_goes s _

/-! ## Sensors, wind and reset -/

theorem changeLevel_goes (input : Fin 16) (high : Bool) (s : State) : ShowGoes s (changeLevel input high s) := by
  unfold changeLevel; split
  · exact ShowGoes.refl s
  · exact setGu_goes s _

theorem timerExpires_goes (input : Fin 16) (s : State) : ShowGoes s (timerExpires input s) := by
  unfold timerExpires; split
  · exact expireDebounce_goes input s
  · exact ShowGoes.refl s

theorem gateExpires_goes (s : State) : ShowGoes s (gateExpires s) := by
  unfold gateExpires expireGate; dsimp only
  repeat' split
  · exact setGu_goes s _
  · exact (setGu_goes s _).trans (raise_goes .wind _)
  · exact ShowGoes.refl s

theorem assertReset_goes (s : State) : ShowGoes s (assertReset s) where
  holds _ := by simp [HoldsSound, assertReset, State.reset, Sequencer.reset]
  record _ := by simp [RecordSound, assertReset, State.reset, Sequencer.reset]
  clock _ := rfl
  table _ := by simp [TableSound, assertReset, State.reset, Sequencer.reset]
  empty _ _ := rfl
  whole _ := rfl

theorem recomputeTable_goes (s : State) : ShowGoes s (recomputeTable s) := setLs_goes s _

theorem startGate_goes (s : State) : ShowGoes s (startGate s) := setGu_goes s _

theorem releaseReset_goes (straps : BitVec 6) (senses : Half) (s : State) :
    ShowGoes s (releaseReset straps senses s) := by
  have sampled : ShowGoes s (sampleSenses senses (sampleStraps straps { s with inReset := false })) :=
    goes_of_beside rfl rfl
  have evaluated := (sampled.trans (recomputeTable_goes _)).trans (evaluateLevels_goes _)
  exact ((evaluated.trans (startGate_goes _)).trans (takeFieldPeriod_goes _)).trans (takeColourPeriod_goes _)

theorem endReset_goes (straps : BitVec 6) (senses : Half) (s : State) : ShowGoes s (endReset straps senses s) := by
  unfold endReset; split
  · exact releaseReset_goes straps senses s
  · exact ShowGoes.refl s

/-! ## Every command -/

theorem outOfReset_runs {f : State → State} {s : State} (h : ShowRuns s (f s)) : ShowRuns s (outOfReset f s) := by
  unfold outOfReset; split
  · exact (ShowGoes.refl s).runs
  · exact h

/-- What a command answers is the settled state of an operation that keeps the rules of the show. -/
def AnswersRun (s : State) (o : Host.Outcome State Fault Refusal) : Prop := ∃ x, o = answer x ∧ ShowRuns s x

theorem answersRun {s x : State} (h : ShowRuns s x) : AnswersRun s (answer x) := ⟨x, rfl, h⟩

theorem execArbiterGrant_answersRun (input : GrantInput) (s : State) : AnswersRun s (execArbiterGrant input s) := by
  unfold execArbiterGrant; split
  · exact answersRun (((presentRead_goes _ s).trans (setPu_goes _ _)).trans (grantPort_goes _ _)).runs
  · exact answersRun (grantPort_goes _ s).runs

/-- Every command keeps the rules of the show, and divides a run only by the advance that comes next. -/
theorem exec_answersRun (c : Instr) (s : State) : AnswersRun s (exec c s) := by
  cases c
  case start => exact answersRun (captured_runs (takeCommand_runs _ .start s))
  case stop => exact answersRun (captured_runs (takeCommand_runs _ .stop s))
  case hold => exact answersRun (captured_runs (takeCommand_runs _ .hold s))
  case step => exact answersRun (captured_runs (takeCommand_runs _ .step s))
  case proceed => exact answersRun (captured_runs (takeCommand_runs _ .proceed s))
  case ringReset => exact answersRun (captured_runs (takeCommand_runs _ .ringReset s))
  case ambient => exact answersRun (captured_runs (takeCommand_runs _ .ambient s))
  case cueResync => exact answersRun (captured_runs (takeCommand_runs _ .cueResync s))
  case releaseInterlocks => exact answersRun (captured_runs (takeCommand_runs _ .releaseInterlocks s))
  case mute => exact answersRun (captured_runs (takeCommand_runs _ .mute s))
  case monitor => exact answersRun (captured_runs (takeCommand_runs _ .monitor s))
  case spaceTriggers => exact answersRun (captured_runs (takeCommand_runs _ .spaceTriggers s))
  case clearCounts => exact answersRun (captured_runs (takeCommand_runs _ .clearCounts s))
  case showCmdUnknownCode => exact answersRun (captured_runs (takeShowCommand_runs _ s))
  case showCmdPartialWrite => exact answersRun (decideWord_runs _ _ s)
  case showArgWrite => exact answersRun (captured_runs (takeArg_goes _ _ s).runs)
  case cueMarkWrite => exact answersRun (captured_runs (writeCueMark_goes _ s).runs)
  case audioMarkWrite => exact answersRun (captured_runs (writeAudioMark_goes _ s).runs)
  case attnEnableWrite => exact answersRun (captured_runs (takeEnable_goes _ s).runs)
  case attnClearWrite => exact answersRun (captured_runs (takeClear_goes _ s).runs)
  case causeWordRead => exact answersRun (presentRead_goes _ s).runs
  case stagingWordWrite => exact answersRun (captured_runs (captureStaging_goes _ _ s).runs)
  case programRow | eraseAll | setLock | clearStaging | limitCmdUnknownCode =>
    exact answersRun (captured_runs (takeLimitCommand_goes _ _ s).runs)
  case programRowCompletion => exact answersRun (outOfReset_runs (completeProgramRow_goes _ s).runs)
  case eraseAllCompletion => exact answersRun (outOfReset_runs (completeEraseAll_goes s).runs)
  case setLockCompletion => exact answersRun (outOfReset_runs (completeSetLock_goes s).runs)
  case processorWrite => exact answersRun (decideWord_runs _ _ s)
  case arbiterGrant => exact execArbiterGrant_answersRun _ s
  case processorTransactionEnd => exact answersRun (endTransaction_goes s).runs
  case fetchBurstCompletion => exact answersRun (outOfReset_runs (endBurst_runs s))
  case primingComplete => exact answersRun (outOfReset_runs (primingTest_goes s).runs)
  case waitingRecordExpansion => exact answersRun (outOfReset_runs (retryHead_runs s))
  case syncInRising => exact answersRun (outOfReset_runs (takeSync_goes s).runs)
  case framePeriod => exact answersRun (outOfReset_runs (playPeriod_showRuns s))
  case starvedResume => exact answersRun (outOfReset_runs (resumePeriod_showRuns s))
  case starveLimit => exact answersRun (outOfReset_runs (starveLimitTest_goes s).runs)
  case winddownCompletion => exact answersRun (outOfReset_runs (winddownPeriod_goes s).runs)
  case windowEnd => exact answersRun (outOfReset_runs (endWindow_monitorsOnly _ s).unmoved.goes.runs)
  case fieldPeriod => exact answersRun (outOfReset_runs (takeFieldPeriod_goes s).runs)
  case deferredCloseApply => exact answersRun (outOfReset_runs (deferredClosePeriod_goes _ s).runs)
  case colourPeriod => exact answersRun (outOfReset_runs (takeColourPeriod_goes s).runs)
  case senseLevelChange => exact answersRun (outOfReset_runs (changeLevel_goes _ _ s).runs)
  case debounceTimerExpiry => exact answersRun (outOfReset_runs (timerExpires_goes _ s).runs)
  case windInRising => exact answersRun (outOfReset_runs (setGu_goes s _).runs)
  case windGateExpiry => exact answersRun (outOfReset_runs (gateExpires_goes s).runs)
  case resetAssert => exact answersRun (assertReset_goes s).runs
  case resetRelease => exact answersRun (endReset_goes _ _ s).runs

theorem exec_runs {c : Instr} {s t : State} (h : exec c s = .next t) : ShowRuns s t := by
  obtain ⟨x, row, runs⟩ := exec_answersRun c s
  have same : t = settle x := Host.Outcome.next.inj (h.symm.trans row)
  rw [same]; exact runs.thenUnmoved (settle_unmoved x)

/-- The advance that divides a run comes next, and takes the division away or leaves the run divided by the one after it
(R51). -/
theorem exec_dividing {c : Instr} {s t : State} (out : s.inReset = false) (h : exec c s = .next t)
    (next : AdvanceNext (s.setPending (c :: s.pending))) : RunSound t := by
  have waits := (advanceWaits_iff _).mpr next
  have sound : ∀ f : State → State, exec c s = answer (outOfReset f s) → RunSound (f s) → RunSound t := by
    intro f row run
    rw [outOfReset_released f s out] at row
    rw [Host.Outcome.next.inj (h.symm.trans row)]
    exact (settle_unmoved _).runSound run
  cases c
  case framePeriod => exact sound playPeriod rfl (playPeriod_runSound waits)
  case starvedResume =>
    simp only [advanceWaits, pending_setPending, List.head?_cons, Bool.and_eq_true, decide_eq_true_eq] at waits
    obtain ⟨starved, advances⟩ := waits
    have passes : resumeTest s = true := by
      obtain ⟨-, -, ⟨running, -⟩ | ⟨-, enough⟩⟩ := (periodAdvances_iff _).mp advances
      · rw [starved] at running; cases running
      · exact (resumeTest_iff s).mpr enough
    refine sound resumePeriod rfl ?_
    rw [resumePeriod, if_pos ⟨starved, passes⟩]
    exact playPeriod_runSound advances
  all_goals exact absurd waits (by simp [advanceWaits])

end Sys2Proof.Machine

open Sys2Proof Sys2Proof.Machine

/-- Settles O57: every command keeps the rules of the show (`exec_runs`), and a run found divided meets its advance
(`exec_dividing`). -/
theorem showStaysSound : Obligations.ShowStaysSound := by
  unfold Obligations.ShowStaysSound
  intro s t taken
  unfold step at taken
  split at taken
  case h_1 => cases taken; exact ⟨id, id, id, id, id, fun _ => id⟩
  case h_2 c rest queue =>
    have runs := exec_runs taken
    refine ⟨runs.holds, runs.record, runs.clock, runs.table, runs.empty, fun reset sound => ?_⟩
    by_cases divided : s.sq.runDivided = true
    · have out : s.inReset = false := by
        by_contra asserted
        have sq := (reset (by simpa using asserted)).1
        simp [sq, Sequencer.reset] at divided
      obtain ⟨-, -, -, -, next⟩ := sound divided
      refine exec_dividing (s := s.setPending rest) out taken ?_
      rw [AdvanceNext, queue] at next
      exact next
    · exact runs.run (by simpa using divided)

end

section
/-! Proofs: the show commands START, STOP, HOLD, STEP and PROCEED, and entry to RUNNING. -/

namespace Sys2Proof.Machine

/-! ## Show commands taken from the bus -/

/-- Outside a live show there is no fetch request (R34). -/
theorem wantsFetch_resting {s : State} (h : s.sq.state.live = false) : wantsFetch s = false := by
  simp [wantsFetch, h]

/-- What a show command leaves: the effect `a` it had, the write posted and the result recorded (R178). -/
structure CommandDone (code : Word) (burst : Bool) (o : CommandOutcome) (s a t : State) : Prop where
  sq : t.sq = a.sq
  au : t.au = a.au
  wu : t.wu = a.wu
  lu : t.lu = a.lu
  gu : t.gu = a.gu
  ls : t.ls = a.ls
  fetch : FetchKept a t
  rests : a.sq.state.live = false → t.fu.fetchRequest = false
  ground : GroundKept a t
  posted : Posted Config.showCmd code burst s t
  recorded : Recorded code o s t

/-- A word pushed looks at nothing but the path unit. -/
theorem pushWord_pu_congr (w : BusWrite) (refused : Bool) {s t : State} (h : t.pu = s.pu) :
    (pushWord w refused t).pu = (pushWord w refused s).pu := by
  unfold pushWord
  dsimp only
  rw [h]
  split <;> rfl

theorem transparent_decides {burst : Bool} {s : State} (h : PathDecides burst s) : transparent burst s = false := by
  obtain ⟨out, carried⟩ := h
  cases burst <;> simp_all [transparent]

/-- Out of reset a full write to a defined word is captured and posted (R171). -/
theorem captured_decides {offset : Nat} {value : Word} {burst : Bool} {capture : State → State} {s : State}
    (h : PathDecides burst s) :
    captured offset value burst capture s = pushWord (fullWrite s.pu.base offset value burst) false (capture s) := by
  simp only [captured, transparent_decides h, Bool.false_eq_true, if_false]; rfl

/-- The posted write of a command that leaves the path unit. -/
theorem posted_settle {offset : Nat} {value : Word} {burst : Bool} {s a : State} (pu : a.pu = s.pu) :
    Posted offset value burst s (settle (pushWord (fullWrite s.pu.base offset value burst) false a)) := by
  rw [Posted, Forwarded, ← pushWord_pu_congr _ false pu]; rfl

theorem pushWord_beside (w : BusWrite) (refused : Bool) (s : State) :
    (pushWord w refused s).sq = s.sq ∧ (pushWord w refused s).au = s.au ∧ (pushWord w refused s).wu = s.wu ∧
    (pushWord w refused s).lu = s.lu ∧ (pushWord w refused s).gu = s.gu ∧ (pushWord w refused s).ls = s.ls ∧
    (pushWord w refused s).fu = s.fu ∧ (pushWord w refused s).ru = s.ru ∧ (pushWord w refused s).mem = s.mem ∧
    (pushWord w refused s).inReset = s.inReset := by
  rw [pushWord_frame]; exact ⟨rfl, rfl, rfl, rfl, rfl, rfl, rfl, rfl, rfl, rfl⟩

/-- The settled state after a posted write of a command whose effect leaves path and report unit. -/
theorem commandDone_settle {code : Word} {burst : Bool} {o : CommandOutcome} {s a : State} (pu : a.pu = s.pu)
    (ru : a.ru = s.ru) :
    CommandDone code burst o s a
      (settle (pushWord (fullWrite s.pu.base Config.showCmd code burst) false (recordResult code o a))) := by
  have posted : Posted Config.showCmd code burst s
      (settle (pushWord (fullWrite s.pu.base Config.showCmd code burst) false (recordResult code o a))) :=
    posted_settle pu
  have beside := pushWord_beside (fullWrite s.pu.base Config.showCmd code burst) false (recordResult code o a)
  simp only [recordResult, sq_setRu, au_setRu, wu_setRu, lu_setRu, gu_setRu, ls_setRu, fu_setRu, ru_setRu, mem_setRu,
    inReset_setRu] at beside posted ⊢
  revert beside posted
  generalize pushWord (fullWrite s.pu.base Config.showCmd code burst) false _ = t
  rintro posted ⟨sq, au, wu, lu, gu, ls, fu, ru', mem, inReset⟩
  exact {
    sq := (settle_sq t).trans sq, au := (settle_au t).trans au, wu := (settle_wu t).trans wu
    lu := (settle_lu t).trans lu, gu := (settle_gu t).trans gu, ls := (settle_ls t).trans ls
    fetch := fetchKept_settle fu
    rests := fun dead => (settle_fetchRequest t).trans (wantsFetch_resting (by rw [sq]; exact dead))
    ground := groundKept_of ((settle_inReset t).trans inReset) ((settle_mem t).trans mem)
    posted := posted
    recorded := by rw [Recorded, settle_ru, ru', ← ru] }

/-- An accepted show command completes with its effect, the posted write and the recorded result (R178). -/
theorem completes_accepted {c : Instr} {code : Word} {burst : Bool} {outcome : State → CommandOutcome}
    {act : State → State} {s : State} {P : State → Prop}
    (row : exec c s = answer (captured Config.showCmd code burst (fun t => takeCommand code (outcome t) act t) s))
    (path : PathDecides burst s) (accepted : outcome s = .accepted) (pu : (act s).pu = s.pu) (ru : (act s).ru = s.ru)
    (h : ∀ t, CommandDone code burst .accepted s (act s) t → P t) : Completes c s P := by
  rw [captured_decides path] at row
  have effect : takeCommand code (outcome s) act s = recordResult code .accepted (act s) := by
    rw [takeCommand, accepted, if_pos rfl]
  rw [effect] at row
  exact ⟨_, row, h _ (commandDone_settle pu ru)⟩

/-- A refused show command completes with the posted write and the recorded result alone (R178). -/
theorem completes_refused {c : Instr} {code : Word} {burst : Bool} {outcome : State → CommandOutcome}
    {act : State → State} {o : CommandOutcome} {s : State}
    (row : exec c s = answer (captured Config.showCmd code burst (fun t => takeCommand code (outcome t) act t) s))
    (path : PathDecides burst s) (refused : outcome s = o) (other : o ≠ .accepted) :
    Completes c s (ShowRefused code burst o s) := by
  rw [captured_decides path] at row
  have effect : takeCommand code (outcome s) act s = recordResult code o s := by
    rw [takeCommand, refused, if_neg other]
  rw [effect] at row
  have done := commandDone_settle (code := code) (burst := burst) (o := o) (s := s) rfl rfl
  exact ⟨_, row, ⟨done.sq, done.au⟩, ⟨done.wu, done.lu, done.gu, done.ls⟩, done.ground, done.fetch, done.posted,
    done.recorded⟩

/-- What an accepted command that touches the sequencer alone leaves beside it. -/
theorem CommandDone.sequencerOnly {code : Word} {burst : Bool} {s t : State} {x : Sequencer}
    (h : CommandDone code burst .accepted s (s.setSq x) t) :
    t.sq = x ∧ t.au = s.au ∧ PlantKept s t ∧ GroundKept s t ∧ FetchKept s t ∧ Posted Config.showCmd code burst s t ∧
    Recorded code .accepted s t :=
  ⟨h.sq, h.au, ⟨h.wu, h.lu, h.gu, h.ls⟩, h.ground, h.fetch, h.posted, h.recorded⟩

/-- A sequencer that enters RUNNING, or HELD for INTERLOCK while a HOLD entry is matched (R6). -/
theorem enterRunning_setSq (s : State) (x : Sequencer) :
    enterRunning (s.setSq x) = s.setSq { x with
      state := if anyMatched s .hold = true then .held else .running
      holdInterlock := x.holdInterlock || anyMatched s .hold } := by
  rw [enterRunning_frame, enterRunning_sq, setSq_setSq]; rfl

/-! ## STOP -/

theorem stateThenArg_of_state {ok : Bool} (arg : Bool) (h : ok = true) : stateThenArg ok arg = argOutcome arg := by
  rw [stateThenArg, if_pos h]

theorem stateThenArg_refused {ok : Bool} (arg : Bool) (h : ok = false) : stateThenArg ok arg = .refusedState := by
  rw [stateThenArg, h]; rfl

theorem windDown_wanted (kind : WinddownKind) (s : State) : (windDown kind s).wu.wanted = 0 := by
  rw [windDown_wu]; exact (waterWinddown_spec s).1

theorem windDown_commanded (kind : WinddownKind) (s : State) (p : Fin 16) : (windDown kind s).wu.commanded[p] = 0 := by
  rw [windDown_wu, (waterWinddown_spec s).2.1]; exact getFin_replicate 0 p

theorem windDown_output (kind : WinddownKind) (s : State) : (windDown kind s).wu.output = s.wu.output := by
  rw [windDown_wu]; exact (waterWinddown_spec s).2.2.1

/-- At wind-down entry every group goes to its safe level, without a binding (R146, R147). -/
theorem windDown_groups (kind : WinddownKind) (s : State) (g : Fin 64) :
    (windDown kind s).lu.groups[g] = { s.lu.groups[g] with
      target := Colour.level (s.ls.table.safeLevel g), fade := winddownFadeOf kind s.ls.table
      follow := none, scale := 0 } := by
  rw [windDown_lu, groups_mapGroups]; rfl

end Sys2Proof.Machine

open Sys2Proof Sys2Proof.Machine

/-- Settles O16: an accepted STOP is entry to normal wind-down. -/
theorem stopBeginsWinddown : Obligations.StopBeginsWinddown := by
  unfold Obligations.StopBeginsWinddown
  intro s burst path
  constructor
  · intro live
    have only := windDown_showOnly .normal s
    refine completes_accepted rfl path (stateThenArg_of_state true live) only.pu (windDown_ru _ s) fun t done => ?_
    have sq : t.sq = s.sq.windDown .normal := by rw [done.sq, windDown_sq]
    refine ⟨sq, done.au.trans only.au, ?_, fun p => ?_, ?_, fun g => ?_, ?_, ?_, done.gu.trans only.gu,
      done.ls.trans only.ls, ?_, done.posted, done.recorded⟩
    · rw [done.wu, windDown_wanted]
    · rw [done.wu, windDown_commanded]
    · rw [done.wu, windDown_output]
    · rw [done.lu, windDown_groups]; rfl
    · exact done.rests (by rw [windDown_sq]; rfl)
    · exact done.fetch.of_eq only.fu
    · exact done.ground.of_eq only.inReset only.mem
  · exact fun dead => completes_refused rfl path (stateThenArg_refused true dead) (by decide)

/-- Settles O18: the cases of HOLD by show state and ARG0. -/
theorem holdByMode : Obligations.HoldByMode := by
  unfold Obligations.HoldByMode
  intro s burst path
  dsimp only
  have admits : s.sq.state.holdable = true ↔ s.sq.state = .running ∨ s.sq.state = .starved ∨ s.sq.state = .held := by
    cases s.sq.state <;> simp [ShowState.holdable]
  rw [← admits]
  have outcome : s.sq.state.holdable = true → ∀ b, decide (s.ru.arg0.toNat ≤ 1) = b → holdOutcome s = argOutcome b := by
    rintro holdable b rfl; exact stateThenArg_of_state _ holdable
  refine ⟨fun holdable arg => ?_, fun holdable arg => ?_, fun holdable arg => ?_, fun refused => ?_⟩
  · have act : takeHold s = holdForHost s := by rw [takeHold, if_pos arg]
    refine completes_accepted rfl path (outcome holdable true (by simp [arg])) (by rw [act]; rfl) (by rw [act]; rfl)
      fun t done => ?_
    rw [act] at done
    exact done.sequencerOnly
  · have act : takeHold s = s.setSq { s.sq with holdPending := .atMark } := by
      rw [takeHold, if_neg (by simp [arg])]
    refine completes_accepted rfl path (outcome holdable true (by simp [arg])) (by rw [act]; rfl) (by rw [act]; rfl)
      fun t done => ?_
    rw [act] at done
    exact done.sequencerOnly
  · exact completes_refused rfl path (outcome holdable false (by simp; omega)) (by decide)
  · exact completes_refused rfl path (stateThenArg_refused _ (by simpa using refused)) (by decide)

/-- Settles O19: STEP and PROCEED enter RUNNING by R6 when no hold reason is left. -/
theorem stepAndProceedRunOn : Obligations.StepAndProceedRunOn := by
  unfold Obligations.StepAndProceedRunOn
  intro s burst path
  dsimp only
  refine ⟨?_, fun other => ?_, fun held => ?_, fun other => ?_⟩
  · rintro ⟨held, host, interlock⟩
    have act : takeStep s = _ := enterRunning_setSq s { s.sq with holdHost := false, holdPending := .atMark }
    refine completes_accepted rfl path (stateThenArg_of_state true (by simp [inState, held, host, interlock]))
      (by rw [act]; rfl) (by rw [act]; rfl) fun t done => ?_
    rw [act, interlock, Bool.false_or] at done
    exact done.sequencerOnly
  · refine completes_refused rfl path (stateThenArg_refused true ?_) (by decide)
    by_contra steppable
    simp only [inState, Bool.not_eq_false, Bool.and_eq_true, decide_eq_true_eq, Bool.not_eq_true'] at steppable
    obtain ⟨⟨held, host⟩, interlock⟩ := steppable
    exact other ⟨held, host, interlock⟩
  · have accepted := stateThenArg_of_state (ok := inState s .held) true (by simp [inState, held])
    by_cases interlock : s.sq.holdInterlock = true
    · have act : takeProceed s = s.setSq { s.sq with holdHost := false, holdPending := .clear } := by
        simp [takeProceed, interlock]
      refine completes_accepted rfl path accepted (by rw [act]; rfl) (by rw [act]; rfl) fun t done => ?_
      rw [act] at done
      simpa only [interlock, held, true_or, if_true, Bool.true_or] using done.sequencerOnly
    · have act : takeProceed s = _ :=
        (if_neg interlock).trans (enterRunning_setSq s { s.sq with holdHost := false, holdPending := .clear })
      refine completes_accepted rfl path accepted (by rw [act]; rfl) (by rw [act]; rfl) fun t done => ?_
      rw [act] at done
      simpa only [interlock, Bool.false_eq_true, false_or] using done.sequencerOnly
  · exact completes_refused rfl path (stateThenArg_refused true (by simp [inState, other])) (by decide)

end

section
/-! Proofs: START, priming and SYNC_IN. -/

namespace Sys2Proof.Machine

/-! ## Priming -/

theorem primed_iff (s : State) :
    primed s = true ↔ 512 ≤ s.au.fifo.length ∨ (s.fu.final = true ∧ s.fu.audioFetch = s.fu.audioMark) := by
  simp [primed, musicOver_iff]

theorem primingTest_unready {s : State} (h : s.sq.state ≠ .priming ∨ primed s = false) : primingTest s = s := by
  unfold primingTest
  split
  case h_1 priming =>
    rw [if_neg]
    rcases h with h | h
    · exact absurd priming h
    · simp [h]
  all_goals rfl

/-- A primed show in immediate mode enters RUNNING, subject to R6 (R4). -/
theorem primingTest_immediate {s : State} (priming : s.sq.state = .priming) (h : primed s = true)
    (sync : s.sq.sync = .immediate) : primingTest s = enterRunning s := by
  simp [primingTest, priming, h, sync]

/-- A primed show in wait mode goes to ARMED (R4). -/
theorem primingTest_wait {s : State} (priming : s.sq.state = .priming) (h : primed s = true)
    (sync : s.sq.sync = .wait) : primingTest s = setShow .armed s := by
  simp [primingTest, priming, h, sync]

/-! ## START -/

theorem startArgsOk_iff (x : ReportUnit) :
    startArgsOk x = true ↔ x.arg0.toNat ≤ 2 ∧ x.arg1.toNat < 4294967295 ∧ x.arg2.toNat ≤ 1 := by
  have rate : (rateOf x.arg0).isSome = true ↔ x.arg0.toNat ≤ 2 := by
    unfold rateOf; split <;> simp_all; omega
  have sync : (syncOf x.arg2).isSome = true ↔ x.arg2.toNat ≤ 1 := by
    unfold syncOf; split <;> simp_all; omega
  rw [startArgsOk, Bool.and_eq_true, Bool.and_eq_true, rate, sync, decide_eq_true_eq, BitVec.lt_def, and_assoc]
  rfl

theorem startLimitsOk_iff (x : LimitStore) : startLimitsOk x = true ↔ x.tableState = .valid ∧ x.operation = none := by
  simp [startLimitsOk, LimitStore.valid]

theorem rateOf_code {w : Word} {rate : Rate} (h : w.toNat = rate.code) : rateOf w = some rate := by
  unfold rateOf; rw [h]; cases rate <;> rfl

theorem syncOf_le {w : Word} (h : w.toNat ≤ 1) : syncOf w = some (if w = 0 then .immediate else .wait) := by
  rcases (by omega : w.toNat = 0 ∨ w.toNat = 1) with h | h
  · have zero : w = 0 := BitVec.eq_of_toNat_eq h
    subst zero; rfl
  · have one : w = 1 := BitVec.eq_of_toNat_eq h
    subst one; rfl

/-- The three groups of tests that START makes, in their order (R2). -/
theorem startOutcome_eq (s : State) : startOutcome s =
    if s.sq.state = .idle then if startLimitsOk s.ls = true then argOutcome (startArgsOk s.ru) else .refusedLimits
    else .refusedState := by
  simp [startOutcome, inState]

/-- An accepted START before the priming test at it (R3). -/
def begun (s : State) (rate : Rate) (sync : SyncMode) : State :=
  (s.setSq (s.sq.begin s.ls.table rate sync s.ru.arg1)).setAu (s.au.begin rate)

theorem startShow_begun {s : State} {rate : Rate} {sync : SyncMode} (r : rateOf s.ru.arg0 = some rate)
    (m : syncOf s.ru.arg2 = some sync) : startShow s = primingTest (begun s rate sync) := by
  simp only [startShow, r, m, Option.getD_some]; rfl

/-- The state in which an accepted START leaves the show, by its sync mode (R4, R6). -/
def startedState (s : State) (sync : SyncMode) : ShowState :=
  if primed s = true then
    match sync with
    | .immediate => if anyMatched s .hold = true then .held else .running
    | .wait => .armed
  else .priming

/-- The sequencer that an accepted START leaves: the show it begins, moved on by the priming test alone. -/
theorem primingTest_begun_sq (s : State) (rate : Rate) (sync : SyncMode) :
    (primingTest (begun s rate sync)).sq = { s.sq.begin s.ls.table rate sync s.ru.arg1 with
      state := startedState s sync
      holdInterlock := (primingTest (begun s rate sync)).sq.holdInterlock } := by
  have same : primed (begun s rate sync) = primed s := rfl
  unfold startedState
  by_cases ready : primed s = true
  · have entered := enterRunning_sq (begun s rate sync)
    rw [if_pos ready]
    cases sync
    case immediate =>
      rw [primingTest_immediate rfl (same.trans ready) rfl, entered]; rfl
    case wait => rw [primingTest_wait rfl (same.trans ready) rfl]; rfl
  · rw [primingTest_unready (.inr (same.trans (by simpa using ready))), if_neg ready]; rfl

/-- The state an accepted START leaves the show in, by ARG2. -/
theorem startedState_arg (s : State) (mode : s.ru.arg2.toNat ≤ 1) :
    startedState s (if s.ru.arg2 = 0 then .immediate else .wait) =
    if 512 ≤ s.au.fifo.length ∨ (s.fu.final = true ∧ s.fu.audioFetch = s.fu.audioMark) then
      if s.ru.arg2 = 1 then .armed else if anyMatched s .hold = true then .held else .running
    else .priming := by
  unfold startedState
  by_cases ready : primed s = true
  · rw [if_pos ready, if_pos ((primed_iff s).mp ready)]
    rcases (by omega : s.ru.arg2.toNat = 0 ∨ s.ru.arg2.toNat = 1) with h | h
    · have zero : s.ru.arg2 = 0 := BitVec.eq_of_toNat_eq h
      simp [zero]
    · have one : s.ru.arg2 = 1 := BitVec.eq_of_toNat_eq h
      simp [one]
  · rw [if_neg ready, if_neg (mt (primed_iff s).mpr ready)]

end Sys2Proof.Machine

open Sys2Proof Sys2Proof.Machine

/-- Settles O36: the priming test and SYNC_IN, by show state and sync mode. -/
theorem runningIsEntered : Obligations.RunningIsEntered := by
  unfold Obligations.RunningIsEntered
  intro s out
  dsimp only
  have entered : (enterRunning s).sq = _ := enterRunning_sq s
  have nothing : ∀ {c : Instr} {f : State → State}, exec c s = answer (outOfReset f s) → f s = s →
      Completes c s (NothingDone s) := fun row same =>
    completes_event row out (by rw [same]; exact nothingDone_settle s)
  have kept : ∀ x : Sequencer, (settle (s.setSq x)).au = s.au ∧ PlantKept s (settle (s.setSq x)) ∧
      GroundKept s (settle (s.setSq x)) ∧ FetchKept s (settle (s.setSq x)) ∧ PathKept s (settle (s.setSq x)) ∧
      ReportKept s (settle (s.setSq x)) := fun x =>
    ⟨rfl, ⟨rfl, rfl, rfl, rfl⟩, groundKept_of rfl rfl, rfl, rfl, rfl⟩
  rw [← primed_iff]
  refine ⟨fun priming ready sync => ?_, fun priming ready sync => ?_, fun unready => ?_, fun armed => ?_, fun other => ?_⟩
  · refine completes_event (f := primingTest) rfl out ?_
    rw [primingTest_immediate priming ready sync, enterRunning_frame, entered]
    exact ⟨rfl, kept _⟩
  · refine completes_event (f := primingTest) rfl out ?_
    rw [primingTest_wait priming ready sync]
    exact ⟨rfl, kept _⟩
  · exact nothing (f := primingTest) rfl (primingTest_unready (unready.imp_right (by simp)))
  · refine completes_event (f := takeSync) rfl out ?_
    rw [takeSync, if_pos armed, enterRunning_frame, entered]
    exact ⟨rfl, kept _⟩
  · exact nothing (f := takeSync) rfl (by rw [takeSync, if_neg other])

/-- Settles O15: the tests of START in order, and the show an accepted one begins. -/
theorem startBeginsTestedShow : Obligations.StartBeginsTestedShow := by
  unfold Obligations.StartBeginsTestedShow
  refine ⟨fun s burst path => ?_, fun s burst rate path idle valid free code position mode => ?_⟩
  · dsimp only
    rw [← startLimitsOk_iff, ← startArgsOk_iff]
    refine ⟨fun other => ?_, fun idle limits => ?_, fun idle limits arguments => ?_⟩
    · exact completes_refused rfl path (by rw [startOutcome_eq, if_neg other]) (by decide)
    · exact completes_refused rfl path (by rw [startOutcome_eq, if_pos idle, if_neg limits]) (by decide)
    · refine completes_refused rfl path ?_ (by decide)
      rw [startOutcome_eq, if_pos idle, if_pos limits, eq_false_of_ne_true arguments]; rfl
  · have limits := (startLimitsOk_iff s.ls).mpr ⟨valid, free⟩
    have arguments := (startArgsOk_iff s.ru).mpr ⟨by rw [code]; cases rate <;> decide, position, mode⟩
    have accepted : startOutcome s = .accepted := by
      rw [startOutcome_eq, if_pos idle, if_pos limits, arguments]; rfl
    have act := startShow_begun (rateOf_code code) (syncOf_le mode)
    have frame := primingTest_frame (begun s rate (if s.ru.arg2 = 0 then .immediate else .wait))
    refine completes_accepted rfl path accepted (by rw [act, frame]; rfl) (by rw [act, frame]; rfl) fun t done => ?_
    rw [act] at done
    have sq := done.sq.trans (primingTest_begun_sq s rate _)
    rw [frame] at done
    have au : t.au = s.au.begin rate := done.au
    refine ⟨?_, ?_, fun v => ?_, fun p => ?_, fun g => ?_, ?_, ?_, ?_, ?_, ?_, ?_, ?_, ?_, ?_, ?_, ?_, ?_, ?_, ?_,
      fun half => ?_, fun c => ?_, ⟨done.wu, done.lu, done.gu, done.ls⟩, done.ground, done.fetch, done.posted,
      done.recorded⟩
    case refine_3 => rw [sq]; exact (getFin_tabulate _ v).trans (by cases rate <;> rfl)
    case refine_4 => rw [sq]; exact (getFin_tabulate _ p).trans (by cases rate <;> rfl)
    case refine_5 => rw [sq]; exact (getFin_tabulate _ g).trans (by cases rate <;> rfl)
    case refine_6 => rw [sq]; cases rate <;> rfl
    case refine_16 => rw [sq]; exact startedState_arg s mode
    case refine_17 => rw [au]; rfl
    case refine_18 => rw [au]; rfl
    case refine_19 => rw [au]; rfl
    case refine_20 => rw [au]; rfl
    case refine_21 =>
      rw [au]
      refine (getFin_tabulate _ c).trans ?_
      simp [monitorAtStart, Monitor.isOn, Monitor.fresh]
    all_goals rw [sq]; rfl

end

section
/-! Proofs: frame periods that do not advance, faults, and END. -/

namespace Sys2Proof.Machine

/-! ## The frame period, from its report -/

/-- A frame gone from the FIFO (R75). -/
def dropFrame (s : State) : State := s.setAu { s.au with fifo := s.au.fifo.tail }

/-- What a frame period leaves of the state `r` that its report leaves: the frame is shifted out and the monitors fed, and
nothing else moves. -/
structure PeriodDone (r t : State) : Prop where
  sq : t.sq = r.sq
  au : t.au = { r.au with monitors := t.au.monitors, lines := t.au.lines }
  wu : t.wu = r.wu
  groups : ∀ g : Fin 64, t.lu.groups[g] = { r.lu.groups[g] with scale := t.lu.groups[g].scale }
  gu : t.gu = r.gu
  ls : t.ls = r.ls
  fetch : FetchKept r t
  path : PathKept r t
  report : ReportKept r t
  ground : GroundKept r t

theorem playPeriod_done {s : State} (clock : s.au.clock.isSome = true) :
    PeriodDone (reported s) (settle (playPeriod s)) := by
  have fed := feedMonitors_monitorsOnly (emitted (reported s) (periodFrame s))
    (shiftOut (emitted (reported s) (periodFrame s)) (reported s))
  rw [← playPeriod_runs clock] at fed
  generalize playPeriod s = p at fed
  exact {
    sq := (settle_sq p).trans fed.sq
    au := by rw [settle_au, fed.au]; rfl
    wu := (settle_wu p).trans fed.wu
    groups := fun g => by rw [settle_lu, fed.groups g]; rfl
    gu := (settle_gu p).trans fed.gu
    ls := (settle_ls p).trans fed.ls
    fetch := fetchKept_settle fed.fu
    path := pathKept_settle fed.pu
    report := reportKept_settle fed.ru
    ground := groundKept_of ((settle_inReset p).trans fed.inReset) ((settle_mem p).trans fed.mem) }

/-- A frame period of the running clock completes with what its report leaves. -/
theorem completes_framePeriod {s : State} {P : State → Prop} (out : s.inReset = false)
    (clock : s.au.clock.isSome = true) (h : ∀ t, PeriodDone (reported s) t → P t) : Completes .framePeriod s P :=
  completes_event (f := playPeriod) rfl out (h _ (playPeriod_done clock))

/-- The frame period in which a STARVED show resumes completes so by either row (log entry 5). -/
theorem completes_resume {s : State} {P : State → Prop} {c : Instr} (row : c = .framePeriod ∨ c = .starvedResume)
    (out : s.inReset = false) (clock : s.au.clock.isSome = true) (starved : s.sq.state = .starved)
    (passes : resumeTest s = true) (h : ∀ t, PeriodDone (reported s) t → P t) : Completes c s P := by
  rcases row with rfl | rfl
  · exact completes_framePeriod out clock h
  · refine completes_event (f := resumePeriod) rfl out ?_
    rw [resumePeriod, if_pos ⟨starved, passes⟩]
    exact h _ (playPeriod_done clock)

theorem takeFrame_none {s : State} (h : periodOutcome s = .empty ∨ periodOutcome s = .silentPeriod) :
    takeFrame s = s := by
  unfold takeFrame; rcases h with h | h <;> rw [h]

/-- A period that advances drops the front frame, if there is one (R73, R76). -/
theorem takeFrame_advancing {s : State} (same : periodOutcome s = playOutcome s)
    (h : s.au.fifo ≠ [] ∨ (s.fu.final = true ∧ s.fu.audioFetch = s.fu.audioMark)) : takeFrame s = dropFrame s := by
  unfold takeFrame
  rw [same, playOutcome]
  by_cases none : s.au.fifo = []
  · have drained := (musicOver_iff s).mpr (h.resolve_left (not_not_intro none))
    have kept : dropFrame s = s := by rw [dropFrame, none, List.tail_nil, ← none, setAu_self]
    simp [none, drained, kept]
  · simp [none, dropFrame]

/-- A RUNNING show that plays advances (R7). -/
theorem reported_running {s : State} (running : s.sq.state = .running)
    (h : s.au.fifo ≠ [] ∨ (s.fu.final = true ∧ s.fu.audioFetch = s.fu.audioMark)) :
    reported s = advance (dropFrame s) := by
  have same : periodOutcome s = playOutcome s := by simp [periodOutcome, running]
  have state : (dropFrame s).sq.state = .running := running
  rw [reported, takeFrame_advancing same h, same]
  rcases (playOutcome_advances s).mpr h with plays | plays <;> simp [takeReport, plays, state]

/-- A STARVED show that passes its resume test runs again and advances (R10). -/
theorem reported_starved {s : State} (starved : s.sq.state = .starved) (passes : resumeTest s = true) :
    reported s = advance (setShow .running (dropFrame s)) := by
  have same : periodOutcome s = playOutcome s := by simp [periodOutcome, starved, passes]
  have state : (dropFrame s).sq.state = .starved := starved
  have plays := resumeTest_plays passes
  rw [reported, takeFrame_advancing same ((playOutcome_advances s).mp plays), same]
  rcases plays with plays | plays <;> simp [takeReport, plays, state]

/-- A STARVED show that fails its resume test counts one more starved period (R10). -/
theorem reported_counts {s : State} (starved : s.sq.state = .starved) (fails : resumeTest s = false) :
    reported s = countStarved s := by
  have empty : periodOutcome s = .empty := by simp [periodOutcome, starved, fails]
  rw [reported, takeFrame_none (.inl empty), empty]; simp only [takeReport, starved]

/-- A RUNNING show that finds no frame while the music is due starves (R9). -/
theorem reported_starves {s : State} (running : s.sq.state = .running) (none : s.au.fifo = [])
    (due : ¬(s.fu.final = true ∧ s.fu.audioFetch = s.fu.audioMark)) : reported s = starve s := by
  rw [← musicOver_iff] at due
  have empty : periodOutcome s = .empty := by simp [periodOutcome, running, playOutcome, none, due]
  rw [reported, takeFrame_none (.inl empty), empty]; simp only [takeReport, running]

/-- In the other states a frame period takes nothing (R12, R78). -/
theorem reported_silent {s : State} (running : s.sq.state ≠ .running) (starved : s.sq.state ≠ .starved) :
    periodOutcome s = .silentPeriod ∧ reported s = s := by
  have silent : periodOutcome s = .silentPeriod := by
    unfold periodOutcome; cases h : s.sq.state <;> simp_all
  refine ⟨silent, ?_⟩
  rw [reported, takeFrame_none (.inr silent), silent]
  unfold takeReport; cases h : s.sq.state <;> rfl

/-! ## Faults of a live show -/

theorem takeFault_live {s : State} (cause : FaultCause) (live : s.sq.state.live = true) :
    takeFault cause s = raise .fault (windDown .fault (fillRecord cause s)) := by
  unfold takeFault
  split
  case h_1 h | h_7 h | h_8 h => simp [h, ShowState.live] at live
  all_goals rfl

/-- What a fault makes of a live show: fault wind-down at the position it stands at, FAULT raised (R21, R22, R23). -/
structure Tripped (cause : FaultCause) (s t : State) : Prop extends ShowOnly s t where
  sq : t.sq = (fillRecord cause s).sq.windDown .fault
  ru : t.ru = (raise .fault s).ru
  wanted : t.wu.wanted = 0
  commanded : ∀ p : Fin 16, t.wu.commanded[p] = 0
  output : t.wu.output = s.wu.output
  groups : ∀ g : Fin 64, t.lu.groups[g] = { s.lu.groups[g] with
    target := Colour.level (s.ls.table.safeLevel g), fade := 0, follow := none, scale := 0 }

theorem takeFault_tripped {s : State} (cause : FaultCause) (live : s.sq.state.live = true) :
    Tripped cause s (takeFault cause s) where
  toShowOnly := takeFault_showOnly cause s
  sq := takeFault_live_sq cause live
  ru := by rw [takeFault_live cause live, raise_eq, raise_eq, ru_setRu, ru_setRu, windDown_ru, ru_fillRecord]
  wanted := by rw [takeFault_live cause live, wu_raise, windDown_wanted]
  commanded p := by rw [takeFault_live cause live, wu_raise, windDown_commanded]
  output := by rw [takeFault_live cause live, wu_raise, windDown_output, wu_fillRecord]
  groups g := by rw [takeFault_live cause live, lu_raise, windDown_groups, lu_fillRecord, ls_fillRecord]; rfl

/-! ## The advance -/

theorem advance_limit {s : State} (h : s.sq.position = 0xFFFFFFFF) : advance s = takeFault .positionLimit s := by
  rw [advance, if_pos h]

/-- The state whose position has risen by one, before the releases (R7). -/
def moved (s : State) : State := s.setSq { s.sq with position := s.sq.position + 1 }

theorem advance_moves {s : State} (h : s.sq.position ≠ 0xFFFFFFFF) :
    advance s = afterReleases (releaseDue s.sq.table (moved s)) := by
  rw [advance, if_neg h]; rfl

/-- The position below its last value rises by one. -/
theorem toNat_succ {p : Word} (h : p ≠ 0xFFFFFFFF) : (p + 1).toNat = p.toNat + 1 := by
  have lt := p.isLt
  have ne : p.toNat ≠ 4294967295 := fun e => h (BitVec.eq_of_toNat_eq e)
  rw [BitVec.toNat_add, show (1 : Word).toNat = 1 from rfl]
  omega

/-- An entry is due at an advance exactly when it is due at or below the position reached (R62). -/
theorem due_moved {s : State} {e : ReleaseEntry} (h : s.sq.position ≠ 0xFFFFFFFF) :
    e.due ≤ (moved s).sq.position ↔ e.due.toNat ≤ s.sq.position.toNat + 1 := by
  rw [BitVec.le_def, ← toNat_succ h]; rfl

/-- An END at the front of the due entries begins normal wind-down and ends the releases (R20, R62). -/
theorem releaseDue_end {e : ReleaseEntry} {later : List ReleaseEntry} {s : State} (due : e.due ≤ s.sq.position)
    (last : e.action = .endShow) : releaseDue (e :: later) s =
      { state := windDown .normal (takeEntry e later s), ended := true, holdCalled := false, freed := true } := by
  rw [releaseDue, if_pos due]
  simp only [last, if_true]
  rfl

end Sys2Proof.Machine

open Sys2Proof Sys2Proof.Machine

/-- Settles O40: the frame periods that do not advance, by show state. -/
theorem framePeriodWithoutAdvance : Obligations.FramePeriodWithoutAdvance := by
  unfold Obligations.FramePeriodWithoutAdvance
  intro s out
  refine ⟨fun clock running none due => ?_, fun clock running last plays => ?_, fun clock state => ?_, fun stopped => ?_⟩
  · refine completes_framePeriod out clock fun t done => ?_
    rw [reported_starves running none due] at done
    refine ⟨done.sq, ?_, ?_, ?_, done.wu, done.gu, done.ls, done.ground, done.fetch, done.path⟩
    · rw [done.au]; exact none
    · rw [done.au]; exact toNat_saturate16 _ 1
    · exact done.report
  · refine completes_framePeriod out clock fun t done => ?_
    have live : (dropFrame s).sq.state.live = true := by rw [show (dropFrame s).sq.state = .running from running]; rfl
    have tripped := takeFault_tripped .positionLimit live
    rw [reported_running running plays, advance_limit (s := dropFrame s) last] at done
    have sq := done.sq.trans tripped.sq
    rw [sq]
    refine ⟨rfl, rfl, rfl, ?_, rfl, ?_, ?_, ?_, fun p => ?_, ?_, ?_⟩
    · rw [← last]; rfl
    · rw [done.au, tripped.au]; rfl
    · exact done.report.raised tripped.ru
    · rw [done.wu]; exact tripped.wanted
    · rw [done.wu]; exact tripped.commanded p
    · rw [done.wu]; exact tripped.output
    · exact done.ground.of_eq tripped.inReset tripped.mem
  · have running : s.sq.state ≠ .running := by rcases state with h | h | h | h <;> simp [h]
    have starved : s.sq.state ≠ .starved := by rcases state with h | h | h | h <;> simp [h]
    obtain ⟨silent, same⟩ := reported_silent running starved
    have done := playPeriod_done clock
    have lines : (settle (playPeriod s)).au.lines =
        .shifting (emitted s Frame.silent) (decide (s.au.lines = .waiting)) := by
      rw [settle_au, playPeriod_runs clock, (feedMonitors_monitorsOnly _ _).au, same, periodFrame, silent]; rfl
    have zero : emitted s Frame.silent = Vector.replicate 4 0 := by
      refine vector_ext_fin fun c => ?_
      rw [emitted, getFin_tabulate, getFin_replicate]
      split
      · rfl
      · unfold Frame.sample; split <;> rfl
    rw [same] at done
    refine completes_event (f := playPeriod) rfl out ⟨done.sq, ?_, ?_, ⟨_, lines.trans (by rw [zero])⟩, done.wu, done.gu,
      done.ls, done.ground, done.fetch, done.path, done.report⟩
    all_goals rw [done.au]
  · exact completes_event (f := playPeriod) rfl out (by rw [playPeriod_stopped stopped]; exact nothingDone_settle s)

/-- Settles O42: the count that reaches the limit, by its own row and in the frame period that counts to it. -/
theorem starveLimitTrips : Obligations.StarveLimitTrips := by
  unfold Obligations.StarveLimitTrips
  intro s out starved
  dsimp only
  have live : ∀ n : Nat, (s.setSq { s.sq with starveCount := n }).sq.state.live = true := fun _ => by
    rw [sq_setSq, starved]; rfl
  refine ⟨fun limit => ?_, fun clock limit few due => ?_⟩
  · have tripped := takeFault_tripped .starveLimit (s := s) (by rw [starved]; rfl)
    refine completes_event (f := starveLimitTest) rfl out ?_
    rw [starveLimitTest, if_pos ⟨starved, limit⟩]
    generalize takeFault .starveLimit s = u at tripped
    refine ⟨?_, ?_, ?_, ?_, ?_, ?_, ?_, reportRaised_settle tripped.ru, tripped.wanted, tripped.commanded, tripped.output,
      fun g => ?_, ?_, tripped.gu, tripped.ls, groundKept_of tripped.inReset tripped.mem, fetchKept_settle tripped.fu⟩
    case refine_8 => rw [settle_lu, tripped.groups g]; exact ⟨rfl, rfl, rfl, rfl⟩
    case refine_9 => rw [settle_au, tripped.au]
    all_goals rw [settle_sq, tripped.sq]; rfl
  · have fails : resumeTest s = false := by
      rw [Bool.eq_false_iff, ne_eq, resumeTest_iff]; exact fun h => h.elim (by omega) due
    have tripped := takeFault_tripped .starveLimit (live (s.sq.starveCount + 1))
    refine completes_framePeriod out clock fun t done => ?_
    rw [reported_counts starved fails, countStarved, starveLimitTest, if_pos ⟨starved, limit⟩] at done
    generalize takeFault .starveLimit _ = u at tripped done
    have sq := done.sq.trans tripped.sq
    refine ⟨?_, ?_, ?_, ?_, ?_, ?_, ?_, ?_, ?_, fun p => ?_, ?_, fun g => ?_, ?_, done.gu.trans tripped.gu,
      done.ls.trans tripped.ls, ?_, ?_⟩
    case refine_8 => exact done.report.raised tripped.ru
    case refine_9 => rw [done.wu]; exact tripped.wanted
    case refine_10 => rw [done.wu]; exact tripped.commanded p
    case refine_11 => rw [done.wu]; exact tripped.output
    case refine_12 => rw [done.groups g, tripped.groups g]; exact ⟨rfl, rfl, rfl, rfl⟩
    case refine_13 => rw [done.au, tripped.au]; rfl
    case refine_14 => exact done.ground.of_eq tripped.inReset tripped.mem
    case refine_15 => exact done.fetch.of_eq tripped.fu
    all_goals rw [sq]; rfl

/-- Settles O45: an END at the front of the due entries. -/
theorem endBeginsWinddown : Obligations.EndBeginsWinddown := by
  unfold Obligations.EndBeginsWinddown
  intro s e later out clock running limit frames table due last
  refine completes_framePeriod out clock fun t done => ?_
  have due' : e.due ≤ (moved (dropFrame s)).sq.position := (due_moved (s := dropFrame s) limit).mpr due
  have released : reported s = windDown .normal (takeEntry e later (moved (dropFrame s))) := by
    rw [reported_running running (.inl frames), advance_moves (s := dropFrame s) limit,
      show (dropFrame s).sq.table = e :: later from table, releaseDue_end due' last, afterReleases, if_pos rfl]
  rw [released] at done
  have only := windDown_showOnly .normal (takeEntry e later (moved (dropFrame s)))
  refine ⟨?_, ?_, fun p => ?_, ?_, fun g => ?_, ?_, done.gu.trans only.gu, done.ls.trans only.ls, ?_, ?_, ?_⟩
  · rw [done.sq, windDown_sq]; rfl
  · rw [done.wu, windDown_wanted]
  · rw [done.wu, windDown_commanded]
  · rw [done.wu, windDown_output]; rfl
  · rw [done.groups g, windDown_groups]; exact ⟨rfl, rfl, rfl⟩
  · rw [done.au, only.au]; rfl
  · exact done.ground.of_eq only.inReset only.mem
  · exact done.fetch.of_eq only.fu
  · exact done.report.of_eq (windDown_ru _ _)

end

section
/-! Proofs: completion of wind-down. -/

namespace Sys2Proof.Machine

/-! ## The completion test -/

theorem lightsFinished_iff (s : State) : lightsFinished s = true ↔ FadesDone s.lu := by
  simp only [lightsFinished, LightGroup.finished, List.all_eq_true, List.mem_finRange, true_implies, decide_eq_true_eq]

/-- The four conditions of R25, as the statements have them. -/
theorem winddownDone_iff (s : State) : winddownDone s = true ↔
    s.sq.state = .winddown ∧ WaterDone s.wu ∧ FadesDone s.lu ∧ s.sq.colourTaken = true := by
  simp only [winddownDone, Bool.and_eq_true, decide_eq_true_eq, waterAtRest_iff, lightsFinished_iff]
  tauto

theorem winddownTest_done {s : State} (h : winddownDone s = true) : winddownTest s = completeWinddown s := if_pos h

theorem winddownTest_unmet {s : State} (h : ¬winddownDone s = true) : winddownTest s = s := if_neg h

/-- A show that is winding down goes on winding down exactly while a condition is unmet (R25). -/
theorem winddownTest_state {s : State} (down : s.sq.state = .winddown) :
    (winddownTest s).sq.state = .winddown ↔ ¬winddownDone s = true := by
  constructor
  · intro still done
    rw [winddownTest_done done] at still
    have after : s.sq.kind.after = .winddown := still
    cases kind : s.sq.kind <;> simp [kind, WinddownKind.after] at after
  · intro unmet
    rw [winddownTest_unmet unmet, down]

/-- Completion at the end of a period that leaves audio, fetch and path unit as they were. -/
theorem winddownEnded_settle {s w : State} (au : w.au = s.au) (fu : w.fu = s.fu) (pu : w.pu = s.pu) :
    WinddownEnded w.sq s (settle (completeWinddown w)) := by
  refine ⟨?_, ?_, fun half => ?_, ?_, ?_⟩
  · rw [settle_sq]
    unfold completeWinddown voidBurst
    cases kind : w.sq.kind <;> simp [kind, WinddownKind.after]
  · rw [settle_au, ← au]; rfl
  · rw [settle_au]; rfl
  · rw [settle_fu, ← fu]; rfl
  · rw [settle_pu, ← pu]; rfl

/-! ## The periods of a show that winds down -/

/-- A pump at rest that is commanded to 0 stays at rest (R101, R106). -/
theorem rampedOutput_rest {s : State} {p : Fin 16} (rest : s.wu.output[p] = 0) (command : s.wu.commanded[p] = 0) :
    rampedOutput s p = 0 := by
  have target : pumpTarget s p = 0 := by rw [pumpTarget, command, Nat.zero_min]
  rw [rampedOutput, rest, target, rampStep_self]

/-- Water at rest with nothing commanded is at rest after a field period, its outputs as they were (R98, R108). -/
theorem waterPeriod_rest {s : State} (done : WaterDone s.wu) (commanded : ∀ p : Fin 16, s.wu.commanded[p] = 0) :
    (waterPeriod s).wu.output = s.wu.output ∧ (waterPeriod s).wu.applied = 0 := by
  obtain ⟨rest, closed⟩ := done
  constructor
  · refine vector_ext_fin fun p => ?_
    rw [rest p]
    exact (getFin_tabulate _ p).trans (rampedOutput_rest (rest p) (commanded p))
  · have applied : (waterPeriod s).wu.applied = s.wu.applied &&& _ := rfl
    rw [applied, closed]; exact BitVec.zero_and

/-- The last step of a fade brings a component to its target (R139). -/
theorem fadeComponent_one (c t : Byte) : fadeComponent 1 c t = t := by
  have share : ∀ n, fadeShare n 1 = n := fun n => by simp [fadeShare]
  have small := t.isLt
  unfold fadeComponent
  rw [share, share]
  split
  · refine BitVec.eq_of_toNat_eq ?_
    rw [BitVec.toNat_ofNat, Nat.mod_eq_of_lt] <;> omega
  · refine BitVec.eq_of_toNat_eq ?_
    rw [BitVec.toNat_ofNat, Nat.mod_eq_of_lt] <;> omega

/-- A group with at most one fade period left has finished its fade at the next colour period (R139, R140). -/
theorem fadeStep_finished {g : LightGroup} (h : g.fade.toNat ≤ 1) :
    g.fadeStep.fade = 0 ∧ g.fadeStep.current = g.fadeStep.target := by
  unfold LightGroup.fadeStep
  split
  case isTrue none => exact ⟨none, rfl⟩
  case isFalse some =>
    have ne : g.fade.toNat ≠ 0 := fun z => some (BitVec.eq_of_toNat_eq z)
    have one : g.fade = 1 := BitVec.eq_of_toNat_eq (show g.fade.toNat = 1 by omega)
    have last : g.fade.toNat = 1 := by omega
    refine ⟨by simp [one], ?_⟩
    simp only [last, fadeColour, fadeComponent_one]

theorem lightPeriod_groups (s : State) (g : Fin 64) : (lightPeriod s).lu.groups[g] = s.lu.groups[g].fadeStep :=
  groups_mapGroups s.lu (fun _ r => r.fadeStep) g

/-- A colour period, up to its completion test. -/
def colourStep (s : State) : State := noteColourPeriod (lightPeriod s)

theorem colourStep_finished {s : State} (h : ∀ g : Fin 64, s.lu.groups[g].fade.toNat ≤ 1) :
    FadesDone (colourStep s).lu := fun g => by
  have same : (colourStep s).lu.groups[g] = s.lu.groups[g].fadeStep := lightPeriod_groups s g
  rw [same]; exact fadeStep_finished (h g)

theorem winddownPeriod_field {s : State} (h : winddownDone (waterPeriod s) = true) :
    winddownPeriod s = takeFieldPeriod s := if_pos h

theorem winddownPeriod_colour {s : State} (h : ¬winddownDone (waterPeriod s) = true)
    (k : winddownDone (colourStep s) = true) : winddownPeriod s = takeColourPeriod s :=
  (if_neg h).trans (if_pos k)

theorem winddownPeriod_none {s : State} (h : ¬winddownDone (waterPeriod s) = true)
    (k : ¬winddownDone (colourStep s) = true) : winddownPeriod s = s :=
  (if_neg h).trans (if_neg k)

theorem exec_winddownCompletion {s : State} (out : s.inReset = false) :
    exec .winddownCompletion s = .next (settle (winddownPeriod s)) :=
  congrArg answer (outOfReset_released winddownPeriod s out)

/-- What the completion test at the end of a period leaves beside sequencer, audio, fetch and path unit. -/
theorem winddownTest_beside (w : State) :
    (winddownTest w).wu = w.wu ∧ (winddownTest w).lu = w.lu ∧ (winddownTest w).gu = w.gu ∧
    (winddownTest w).ls = w.ls ∧ (winddownTest w).mem = w.mem ∧ (winddownTest w).inReset = w.inReset ∧
    (winddownTest w).ru = w.ru := by
  have only := winddownTest_fetchOnly w
  refine ⟨only.wu, only.lu, only.gu, only.ls, only.mem, only.inReset, ?_⟩
  unfold winddownTest; split <;> rfl

/-- Guard unit, limits, ground and report unit stand through the completion test of a period that leaves them. -/
theorem winddownTest_others {s w : State} (gu : w.gu = s.gu) (ls : w.ls = s.ls) (mem : w.mem = s.mem)
    (inReset : w.inReset = s.inReset) (ru : w.ru = s.ru) :
    (settle (winddownTest w)).gu = s.gu ∧ (settle (winddownTest w)).ls = s.ls ∧
    GroundKept s (settle (winddownTest w)) ∧ ReportKept s (settle (winddownTest w)) := by
  obtain ⟨-, -, gu', ls', mem', inReset', ru'⟩ := winddownTest_beside w
  exact ⟨(settle_gu _).trans (gu'.trans gu), (settle_ls _).trans (ls'.trans ls),
    groundKept_of ((settle_inReset _).trans (inReset'.trans inReset)) ((settle_mem _).trans (mem'.trans mem)),
    reportKept_settle (ru'.trans ru)⟩

/-- A period at whose end a condition is unmet, and which leaves audio, fetch and path unit as they were. -/
theorem goesOn_settle {s w : State} (au : w.au = s.au) (fu : w.fu = s.fu) (pu : w.pu = s.pu) :
    (settle w).sq = w.sq ∧ (settle w).au = s.au ∧ FetchKept s (settle w) ∧ PathKept s (settle w) :=
  ⟨settle_sq w, (settle_au w).trans au, fetchKept_settle fu, pathKept_settle pu⟩

end Sys2Proof.Machine

open Sys2Proof Sys2Proof.Machine

/-- Settles O50: the completion test at the end of each field and colour period, and the row of its own. -/
theorem winddownCompletes : Obligations.WinddownCompletes := by
  unfold Obligations.WinddownCompletes
  intro s out
  dsimp only
  have field := winddownTest_others (s := s) (w := waterPeriod s) rfl rfl rfl rfl rfl
  have colour := winddownTest_others (s := s) (w := colourStep s) rfl rfl rfl rfl rfl
  obtain ⟨fieldWu, fieldLu, -⟩ := winddownTest_beside (waterPeriod s)
  obtain ⟨colourWu, colourLu, -⟩ := winddownTest_beside (colourStep s)
  have ended : ∀ w : State, winddownDone w = true → w.au = s.au → w.fu = s.fu → w.pu = s.pu →
      WinddownEnded w.sq s (settle (winddownTest w)) := fun w done au fu pu => by
    rw [winddownTest_done done]; exact winddownEnded_settle au fu pu
  refine ⟨fun down => ?_, fun down => ?_, fun down water commanded fades taken => ?_,
    fun down water fades taken => ?_, ?_⟩
  · refine completes_event (f := takeFieldPeriod) rfl out ⟨?_, ?_, ?_, field⟩
    · rintro ⟨water, fades, taken⟩
      refine ended (waterPeriod s) ((winddownDone_iff _).mpr ⟨down, ?_, fades, taken⟩) rfl rfl rfl
      rw [settle_wu, takeFieldPeriod, fieldWu] at water; exact water
    · intro unmet
      have same : takeFieldPeriod s = waterPeriod s := by
        refine winddownTest_unmet fun done => unmet ?_
        obtain ⟨-, water, fades, taken⟩ := (winddownDone_iff _).mp done
        refine ⟨?_, fades, taken⟩
        rw [settle_wu, takeFieldPeriod, fieldWu]; exact water
      rw [same]
      exact goesOn_settle (w := waterPeriod s) rfl rfl rfl
    · exact (settle_lu _).trans fieldLu
  · refine completes_event (f := takeColourPeriod) rfl out ⟨?_, ?_, ?_, colour⟩
    · rintro ⟨water, fades⟩
      refine ended (colourStep s) ((winddownDone_iff _).mpr ⟨down, water, ?_, rfl⟩) rfl rfl rfl
      rw [settle_lu, takeColourPeriod, ← colourStep, colourLu] at fades; exact fades
    · intro unmet
      have same : takeColourPeriod s = colourStep s := by
        refine winddownTest_unmet fun done => unmet ?_
        obtain ⟨-, water, fades, -⟩ := (winddownDone_iff _).mp done
        refine ⟨water, ?_⟩
        rw [settle_lu, takeColourPeriod, ← colourStep, colourLu]; exact fades
      rw [same]
      exact goesOn_settle (w := colourStep s) rfl rfl rfl
    · exact (settle_wu _).trans colourWu
  · obtain ⟨output, applied⟩ := waterPeriod_rest water commanded
    have rest : WaterDone (waterPeriod s).wu := ⟨fun p => by rw [output]; exact water.1 p, applied⟩
    have done := (winddownDone_iff (waterPeriod s)).mpr ⟨down, rest, fades, taken⟩
    refine completes_event (f := winddownPeriod) rfl out ?_
    rw [winddownPeriod_field done]
    refine ⟨ended (waterPeriod s) done rfl rfl rfl, ?_, (settle_lu _).trans fieldLu, field⟩
    rw [settle_wu, takeFieldPeriod, fieldWu, output]
  · have early : ¬winddownDone (waterPeriod s) = true := fun done => by
      obtain ⟨-, -, -, note⟩ := (winddownDone_iff _).mp done
      rw [show (waterPeriod s).sq.colourTaken = false from taken] at note
      cases note
    have done := (winddownDone_iff (colourStep s)).mpr ⟨down, water, colourStep_finished fades, rfl⟩
    refine completes_event (f := winddownPeriod) rfl out ?_
    rw [winddownPeriod_colour early done]
    exact ⟨ended (colourStep s) done rfl rfl rfl, (settle_wu _).trans colourWu, colour⟩
  · refine completes_event (f := takeFieldPeriod) rfl out (completes_event (f := takeColourPeriod) rfl out ?_)
    rw [settle_sq, settle_sq, exec_winddownCompletion out]
    have fieldState : s.sq.state = .winddown →
        ((takeFieldPeriod s).sq.state = .winddown ↔ ¬winddownDone (waterPeriod s) = true) :=
      fun down => winddownTest_state (s := waterPeriod s) down
    have colourState : s.sq.state = .winddown →
        ((takeColourPeriod s).sq.state = .winddown ↔ ¬winddownDone (colourStep s) = true) :=
      fun down => winddownTest_state (s := colourStep s) down
    refine ⟨fun down ends => ?_, fun down goes ends => ?_, fun neither => ?_⟩
    · rw [winddownPeriod_field (by simpa using mt (fieldState down).mpr ends)]
    · rw [winddownPeriod_colour ((fieldState down).mp goes) (by simpa using mt (colourState down).mpr ends)]
    · have same : winddownPeriod s = s := by
        rcases neither with other | ⟨fieldGoes, colourGoes⟩
        · exact winddownPeriod_none (fun done => other ((winddownDone_iff _).mp done).1)
            (fun done => other ((winddownDone_iff _).mp done).1)
        · by_cases down : s.sq.state = .winddown
          · exact winddownPeriod_none ((fieldState down).mp fieldGoes) ((colourState down).mp colourGoes)
          · exact winddownPeriod_none (fun done => down ((winddownDone_iff _).mp done).1)
              (fun done => down ((winddownDone_iff _).mp done).1)
      exact completes_event (f := winddownPeriod) rfl out (by rw [same]; exact nothingDone_settle s)

end

section
/-! Proofs: the advance, its releases, and the examination of the head at their end. -/

namespace Sys2Proof.Machine

/-! ## Releases up to the last due entry -/

/-- With nothing due at the front nothing is released (R62). -/
theorem releaseDue_none {es : List ReleaseEntry} {s : State}
    (h : ∀ e, es.head? = some e → ¬e.due ≤ s.sq.position) :
    releaseDue es s = { state := s, ended := false, holdCalled := false, freed := false } := by
  cases es with
  | nil => rfl
  | cons e rest => rw [releaseDue, if_neg (h e rfl)]

/-- A due entry other than END is delivered, and the releases go on behind it (R62). -/
theorem releaseDue_cons {e : ReleaseEntry} {rest : List ReleaseEntry} {s : State} (due : e.due ≤ s.sq.position)
    (other : e.action ≠ .endShow) :
    releaseDue (e :: rest) s =
      { releaseDue rest (deliver e.action (takeEntry e rest s)) with
        holdCalled := (releaseDue rest (deliver e.action (takeEntry e rest s))).holdCalled ||
          (e.action.isMark && decide (s.sq.holdPending = .atMark))
        freed := true } := by
  rw [releaseDue, if_pos due]
  simp only [other, if_false]

/-- What releases that no END ends leave of a state, when `last` is the last entry released and `later` stands behind it. -/
structure AllReleased (due later : List ReleaseEntry) (last : ReleaseEntry) (s : State) (r : Released) : Prop where
  going : r.ended = false
  freed : r.freed = true
  called : r.holdCalled = true ↔ s.sq.holdPending = .atMark ∧ (due ++ [last]).any (fun e => e.action.isMark) = true
  sq : r.state.sq = { s.sq with
    table := later, lastReleased := some last.source, lastMark := r.state.sq.lastMark }
  output : r.state.wu.output = s.wu.output

/-- The entries at the front of the table that are due, none of them an END, are all released, and no other is (R62). -/
theorem releaseDue_all {due later : List ReleaseEntry} {last : ReleaseEntry} {s : State}
    (all : ∀ e ∈ due ++ [last], e.due ≤ s.sq.position ∧ e.action ≠ .endShow)
    (stop : ∀ e, later.head? = some e → ¬e.due ≤ s.sq.position) :
    AllReleased due later last s (releaseDue (due ++ last :: later) s) := by
  induction due generalizing s with
  | nil =>
    obtain ⟨reached, other⟩ := all last (by simp)
    have sq := deliver_sq other (takeEntry last later s)
    have rest : releaseDue later (deliver last.action (takeEntry last later s)) = _ :=
      releaseDue_none (by rw [sq]; exact stop)
    rw [List.nil_append, releaseDue_cons reached other, rest]
    refine ⟨rfl, rfl, ?_, sq, deliver_output _ _⟩
    simp only [Bool.false_or, Bool.and_eq_true, decide_eq_true_eq, List.nil_append, List.any_cons, List.any_nil,
      Bool.or_false]
    exact and_comm
  | cons e rest ih =>
    obtain ⟨reached, other⟩ := all e (by simp)
    have sq := deliver_sq other (takeEntry e (rest ++ last :: later) s)
    have output := deliver_output e.action (takeEntry e (rest ++ last :: later) s)
    rw [List.cons_append, releaseDue_cons reached other]
    generalize deliver e.action (takeEntry e (rest ++ last :: later) s) = t at sq output
    have position : t.sq.position = s.sq.position := by rw [sq]; rfl
    have pending : t.sq.holdPending = s.sq.holdPending := by rw [sq]; rfl
    have behind := ih (s := t) (fun x h => by rw [position]; exact all x (List.mem_cons_of_mem e h))
      (by rw [position]; exact stop)
    refine ⟨behind.going, rfl, ?_, ?_, behind.output.trans output⟩
    · simp only [Bool.or_eq_true, behind.called, pending, Bool.and_eq_true, decide_eq_true_eq, List.cons_append,
        List.any_cons]
      tauto
    · rw [behind.sq, sq]; rfl

/-! ## Records and their entries -/

/-- A record that is no cue error has an action (R48, R49). -/
theorem actions_nonempty {r : CueRecord} {acts : List Action} (h : r.actions = some acts) : 1 ≤ acts.length := by
  have mask : ∀ w : Word, w ≠ 0 → 1 ≤ ((List.range 32).filter w.getLsbD).length := by
    intro w some
    by_contra none
    have empty := List.filter_eq_nil_iff.mp (List.length_eq_zero_iff.mp (Nat.lt_one_iff.mp (not_le.mp none)))
    exact some (BitVec.eq_of_getLsbD_eq fun i lt => by simpa using empty i (List.mem_range.mpr lt))
  unfold CueRecord.actions at h
  split at h
  · unfold CueRecord.valveActions at h
    split at h
    case isTrue ok => cases h; rw [List.length_map]; exact mask _ ok.2
    case isFalse => cases h
  · unfold CueRecord.pumpActions at h
    split at h <;> cases h
    rfl
  · unfold CueRecord.lightActions at h
    split at h
    case isTrue ok => cases h; rw [List.length_map, List.length_range]; exact ok.2.1
    case isFalse => cases h
  · unfold CueRecord.followActions at h
    split at h
    · cases h; rfl
    · split at h <;> cases h
      rfl
  · cases h; rfl
  · cases h; rfl
  · cases h

/-- The table has room for a record exactly when all its entries fit (R59). -/
theorem hasRoom_actions {r : CueRecord} {acts : List Action} (h : r.actions = some acts) (s : State) :
    hasRoom s acts.length = true ↔ s.sq.table.length + acts.length ≤ 512 := by
  have some := actions_nonempty h
  have room : acts.length ≤ 512 - s.sq.table.length ↔ s.sq.table.length + acts.length ≤ 512 := by omega
  rw [hasRoom, decide_eq_true_eq]; exact room

/-- The expansion of a record, as the statements have it (R58, R59, R61). -/
theorem expand_eq_withEntries (x : Sequencer) (r : CueRecord) (acts : List Action) :
    x.expand r acts = withEntries x r acts := by
  have table : ∀ t, insertEntries (acts.map (entryOf x r)) t = acts.foldl (fun table a =>
      table.takeWhile (fun e => decide (e.due ≤ (entryFor x r a).due)) ++
        entryFor x r a :: table.dropWhile (fun e => decide (e.due ≤ (entryFor x r a).due))) t := by
    intro t
    rw [insertEntries, List.foldl_map]
    exact congrFun (congrArg (fun f => List.foldl f t) (funext₂ fun u a => insertEntry_split _ u)) acts
  have late : lateCountOf (acts.map (entryOf x r)) = acts.countP (fun a => (entryFor x r a).late) := by
    rw [lateCountOf, List.countP_map]; rfl
  simp only [Sequencer.expand, withEntries, table, late]

/-- The marker of the head does not matter to an expansion, and is clear when the head has left (R50). -/
theorem withEntries_unmarked {x : Sequencer} (h : x.headAccepted = false) (r : CueRecord) (acts : List Action) :
    { withEntries { x with headAccepted := true } r acts with headAccepted := false } = withEntries x r acts := by
  have same : (withEntries x r acts).headAccepted = false := h
  rw [← same]; rfl

/-- An accepted head that is a cue error is consumed (R49). -/
theorem settleHead_error {r : CueRecord} (h : r.actions = none) (rest : List CueRecord) (s : State) :
    settleHead r rest s = { state := consumeError rest s, left := true } := by
  simp only [settleHead, h]

/-- An accepted head whose entries fit is expanded (R59). -/
theorem settleHead_fits {r : CueRecord} {acts : List Action} {s : State} (h : r.actions = some acts)
    (fits : s.sq.table.length + acts.length ≤ 512) (rest : List CueRecord) :
    settleHead r rest s = { state := expandHead r acts rest s, left := true } := by
  simp only [settleHead, h, (hasRoom_actions h s).mpr fits, if_true]

/-- An accepted head whose entries do not fit waits (R59). -/
theorem settleHead_waits {r : CueRecord} {acts : List Action} {s : State} (h : r.actions = some acts)
    (full : ¬s.sq.table.length + acts.length ≤ 512) (rest : List CueRecord) :
    settleHead r rest s = { state := s, left := false } := by
  simp only [settleHead, h, mt (hasRoom_actions h s).mp full, Bool.false_eq_true, if_false]

/-! ## A sequencer that has been reached -/

/-- A sequencer with the last mark an advance sets, running on, or held for HOST when the at-mark hold was called for; `b` is the
sequencer whose hold it otherwise keeps (R15). -/
def Sequencer.reach (x : Sequencer) (m : Option LastMark) (called : Bool) (b : Sequencer) : Sequencer :=
  { x with
    lastMark := m
    state := if called then .held else .running
    holdHost := if called then true else b.holdHost
    holdPending := if called then .clear else b.holdPending }

theorem withEntries_reach (x : Sequencer) (m : Option LastMark) (called : Bool) (b : Sequencer) (r : CueRecord)
    (acts : List Action) : withEntries (x.reach m called b) r acts = (withEntries x r acts).reach m called b := rfl

/-- The examination of a head does not look at the last mark, the show state or the hold. -/
theorem examinedHead_reach (x : Sequencer) (m : Option LastMark) (called : Bool) (b : Sequencer) (expected : Byte)
    (q : CueRecord) : examinedHead (x.reach m called b) expected q =
      { examinedHead x expected q with sq := (examinedHead x expected q).sq.reach m called b } := by
  unfold examinedHead
  dsimp only
  split
  · rfl
  · split
    · rfl
    · rw [show (x.reach m called b).table = x.table from rfl]
      split <;> rfl

/-- The hold at a mark leaves the starve count of a show that has advanced (R15). -/
theorem holdForHost_reach {s : State} {x b : Sequencer} {m : Option LastMark} (sq : s.sq = x.reach m false b) :
    (holdForHost s).sq = x.reach m true b := by
  rw [holdForHost, sq_setSq, sq]; rfl

/-! ## Examination of a head that is alone -/

/-- A run over one record is its examination. -/
theorem examineRun_one (q : CueRecord) (s : State) : examineRun [q] s = (examineRecord q [] s).state := by
  by_cases left : (examineRecord q [] s).left = true
  · exact examineRun_goesOn left rfl
  · exact examineRun_stays (by simpa using left)

/-- What the examination of a head alone in the buffer leaves, as the statements have it. -/
structure ExaminedTo (x : Examined) (s t : State) : Prop where
  sq : t.sq = x.sq
  fu : t.fu = { s.fu with cueBuffer := x.buffer, expectedSequence := x.expected, cueBlocked := x.blocked }
  ru : t.ru = { s.ru with pending := s.ru.pending ||| (if x.raised then 8 else 0) }

/-- The examination of a head alone in the buffer, unexamined and free to be (R49, R51, R52, R59). -/
theorem examineRun_single {q : CueRecord} {s : State} (fresh : s.sq.headAccepted = false)
    (free : s.fu.cueBlocked = false) (buffer : s.fu.cueBuffer = [q]) :
    ExaminedTo (examinedHead s.sq s.fu.expectedSequence q) s (examineRun [q] s) := by
  rw [examineRun_one]
  by_cases number : q.sequence = s.fu.expectedSequence
  case neg =>
    have broken : examineRecord q [] s = { state := sequenceBreak q s, left := false } := by
      simp [examineRecord, fresh, free, number]
    rw [broken, examinedHead, if_pos number]
    exact ⟨rfl, by simp [sequenceBreak, buffer], rfl⟩
  case pos =>
    have matched : examineRecord q [] s = settleHead q [] (sequenceMatch q s) := by
      simp [examineRecord, fresh, free, number]
    rw [matched, examinedHead, if_neg (not_not_intro number)]
    cases actions : q.actions with
    | none =>
      rw [settleHead_error actions]
      exact ⟨by simp [consumeError, popHead, sequenceMatch, fresh], by simp [consumeError, popHead, sequenceMatch, free],
        rfl⟩
    | some acts =>
      dsimp only
      by_cases fits : s.sq.table.length + acts.length ≤ 512
      · rw [settleHead_fits (s := sequenceMatch q s) actions fits, if_pos fits, expandHead, expand_eq_withEntries]
        exact ⟨withEntries_unmarked (x := { s.sq with foundSequence := q.sequence }) fresh q acts,
          by simp [popHead, sequenceMatch, free],
          by simp [popHead, sequenceMatch]⟩
      · rw [settleHead_waits (s := sequenceMatch q s) actions fits, if_neg fits]
        exact ⟨rfl, by simp [sequenceMatch, free, buffer], by simp [sequenceMatch]⟩

/-- The examination of a head leaves a whole run whole. -/
theorem examinedHead_whole {x : Sequencer} (h : x.runDivided = false) (expected : Byte) (q : CueRecord) :
    (examinedHead x expected q).sq.runDivided = false := by
  unfold examinedHead
  dsimp only
  split
  · exact h
  · split
    · exact h
    · split <;> exact h

end Sys2Proof.Machine
end

section
/-! Proofs: what an advance reaches, with nothing due and with entries due, and the frame periods that bring one. -/

namespace Sys2Proof.Machine

/-! ## Runs that go on -/

theorem examineHead_live {s : State} (live : s.sq.state.live = true) : examineHead s = examineRun s.fu.cueBuffer s :=
  if_pos live

/-- A divided run whose next record is alone in the buffer goes on with its examination (R51). -/
theorem resumeRun_single {q : CueRecord} {s : State} (divided : s.sq.runDivided = true) (live : s.sq.state.live = true)
    (fresh : s.sq.headAccepted = false) (free : s.fu.cueBlocked = false) (buffer : s.fu.cueBuffer = [q]) :
    ExaminedTo (examinedHead { s.sq with runDivided := false } s.fu.expectedSequence q) s (resumeRun s) := by
  have one := examineRun_single (s := s.setSq { s.sq with runDivided := false }) fresh free buffer
  rw [resumeRun, if_pos divided, examineHead_live (s := s.setSq { s.sq with runDivided := false }) live, fu_setSq, buffer]
  exact ⟨one.sq, one.fu, one.ru⟩

/-! ## Nothing due -/

/-- With nothing due an advance moves the position, and a run it divides goes on (R7, R51). -/
theorem advance_none {s : State} (limit : s.sq.position ≠ 0xFFFFFFFF)
    (none : ∀ e, s.sq.table.head? = some e → s.sq.position.toNat + 1 < e.due.toNat) :
    advance s = resumeRun (moved s) := by
  have released : releaseDue s.sq.table (moved s) = _ :=
    releaseDue_none fun e front due => Nat.not_lt.mpr ((due_moved limit).mp due) (none e front)
  rw [advance_moves limit, released]
  by_cases divided : (moved s).sq.runDivided = true
  · simp [afterReleases, examineAfter, divided]
  · simp [afterReleases, examineAfter, resumeRun_whole, divided]

theorem advance_none_headOnly {s : State} (limit : s.sq.position ≠ 0xFFFFFFFF)
    (none : ∀ e, s.sq.table.head? = some e → s.sq.position.toNat + 1 < e.due.toNat) : HeadOnly s (advance s) := by
  rw [advance_none limit none]
  have position : HeadOnly s (moved s) := ⟨rfl, rfl, rfl, rfl, rfl, rfl, rfl, rfl, rfl⟩
  exact position.trans (resumeRun_headOnly (moved s))

/-! ## Entries due -/

/-- The sequencer of `x` at an advance whose releases are done, `last` the last entry released and `later` left; a run divided
by the advance goes on (R7, R51, R62). -/
def Sequencer.passed (x : Sequencer) (later : List ReleaseEntry) (last : ReleaseEntry) : Sequencer :=
  { x with position := x.position + 1, table := later, lastReleased := some last.source, runDivided := false }

/-- The releases of the next advance. -/
def releases (s : State) : Released := releaseDue s.sq.table (moved s)

/-- Releases of a RUNNING show from `s` that no END ends, with the sequencer they reach. -/
structure Releasing (later : List ReleaseEntry) (last : ReleaseEntry) (s : State) (r : Released) : Prop where
  going : r.ended = false
  freed : r.freed = true
  sq : ∃ m, r.state.sq = { (s.sq.passed later last).reach m false s.sq with runDivided := s.sq.runDivided }
  output : r.state.wu.output = s.wu.output
  only : ShowOnly s r.state

/-- The due entries of a table, none of them an END, are all released at an advance, and the at-mark hold is called for by a
MARK among them (R15, R62). -/
theorem releases_all {due later : List ReleaseEntry} {last : ReleaseEntry} {s : State} (running : s.sq.state = .running)
    (limit : s.sq.position ≠ 0xFFFFFFFF) (table : s.sq.table = due ++ last :: later)
    (all : ∀ e ∈ due ++ [last], e.due.toNat ≤ s.sq.position.toNat + 1 ∧ e.action ≠ .endShow)
    (stop : ∀ x, later.head? = some x → s.sq.position.toNat + 1 < x.due.toNat) :
    Releasing later last s (releases s) ∧
    ((releases s).holdCalled = true ↔
      s.sq.holdPending = .atMark ∧ (due ++ [last]).any (fun e => e.action.isMark) = true) := by
  have released : AllReleased due later last (moved s) (releaseDue (due ++ last :: later) (moved s)) :=
    releaseDue_all (fun e h => ⟨(due_moved limit).mpr (all e h).1, (all e h).2⟩)
      (fun x front due => Nat.not_lt.mpr ((due_moved limit).mp due) (stop x front))
  have only := (ShowOnly.ofSq s { s.sq with position := s.sq.position + 1 }).trans (releaseDue_showOnly s.sq.table (moved s))
  rw [← table, ← releases] at released
  refine ⟨⟨released.going, released.freed, ⟨(releases s).state.sq.lastMark, ?_⟩, released.output, only⟩, released.called⟩
  rw [released.sq]
  simp [moved, Sequencer.passed, Sequencer.reach, running]

/-- What is left at the end of an advance from `s` that examines a head as `x` has it. -/
structure Reached (x : Examined) (called : Bool) (s w : State) : Prop where
  sq : ∃ m, w.sq = x.sq.reach m called s.sq
  fu : w.fu = { s.fu with cueBuffer := x.buffer, expectedSequence := x.expected, cueBlocked := x.blocked }
  raised : x.raised = true → w.ru.pending.getLsbD 3 = true

/-- The examination of a head at an advance, by the sequencer it is made under. -/
theorem ExaminedTo.reached {x : Sequencer} {m : Option LastMark} {called : Bool} {q : CueRecord} {s u v : State}
    {buffer : List CueRecord} (h : ExaminedTo (examinedHead (x.reach m called s.sq) s.fu.expectedSequence q) u v)
    (fu : u.fu = { s.fu with cueBuffer := buffer }) :
    Reached (examinedHead x s.fu.expectedSequence q) called s v where
  sq := ⟨m, by rw [h.sq, examinedHead_reach]⟩
  fu := by rw [h.fu, examinedHead_reach, fu]
  raised some := by
    have same : (examinedHead (x.reach m called s.sq) s.fu.expectedSequence q).raised = true := by
      rw [examinedHead_reach]; exact some
    rw [h.ru, same]
    simp

/-- The at-mark hold at the end of releases that leave no run divided (R15). -/
theorem afterReleases_reach {r : Released} {x : Sequencer} {m : Option LastMark} {b : Sequencer}
    (going : r.ended = false) (sq : (examineAfter r).sq = x.reach m false b) (whole : x.runDivided = false) :
    (afterReleases r).sq = x.reach m r.holdCalled b ∧ (afterReleases r).fu = (examineAfter r).fu ∧
    (afterReleases r).ru = (examineAfter r).ru := by
  rw [afterReleases, going, if_neg Bool.false_ne_true]
  cases r.holdCalled
  · exact ⟨sq, rfl, rfl⟩
  · have held := holdForHost_reach sq
    have none : (holdForHost (examineAfter r)).sq.runDivided = false := by rw [held]; exact whole
    rw [if_pos rfl, resumeRun_whole none]
    exact ⟨held, rfl, rfl⟩

/-- A head examined at the end of releases, and the at-mark hold after it. -/
theorem Reached.afterReleases {r : Released} {x : Examined} {s : State} (h : Reached x false s (examineAfter r))
    (going : r.ended = false) (whole : x.sq.runDivided = false) : Reached x r.holdCalled s (afterReleases r) := by
  obtain ⟨m, sq⟩ := h.sq
  obtain ⟨sq', fu', ru'⟩ := afterReleases_reach going sq whole
  exact ⟨⟨m, sq'⟩, fu'.trans h.fu, fun some => by rw [ru']; exact h.raised some⟩

section
variable {later : List ReleaseEntry} {last : ReleaseEntry} {s : State} {r : Released}

/-- With a head not accepted and no run divided the releases are followed by the at-mark hold alone. -/
theorem Releasing.unexamined (h : Releasing later last s r) (fresh : s.sq.headAccepted = false)
    (whole : s.sq.runDivided = false) :
    (∃ m, (afterReleases r).sq = (s.sq.passed later last).reach m r.holdCalled s.sq) ∧
    (afterReleases r).fu = s.fu := by
  obtain ⟨m, sq⟩ := h.sq
  rw [whole] at sq
  have unmarked : r.state.sq.headAccepted = false := by rw [sq]; exact fresh
  have kept : examineAfter r = r.state := by
    rw [examineAfter, if_neg (by rw [sq]; exact Bool.false_ne_true), h.freed, if_pos rfl, retryHead,
      if_neg (by rw [unmarked]; exact Bool.false_ne_true)]
  obtain ⟨sq', fu', -⟩ := afterReleases_reach (x := s.sq.passed later last) h.going (by rw [kept]; exact sq) rfl
  exact ⟨⟨m, sq'⟩, by rw [fu', kept]; exact h.only.fu⟩

/-- A divided run goes on with its next record, at the position reached (R51). -/
theorem Releasing.divided (h : Releasing later last s r) {q : CueRecord} (fresh : s.sq.headAccepted = false)
    (divided : s.sq.runDivided = true) (buffer : s.fu.cueBuffer = [q]) (free : s.fu.cueBlocked = false) :
    Reached (examinedHead (s.sq.passed later last) s.fu.expectedSequence q) r.holdCalled s (afterReleases r) := by
  obtain ⟨m, sq⟩ := h.sq
  have runs : r.state.sq.runDivided = true := by rw [sq]; exact divided
  have resumed := resumeRun_single (s := r.state) runs (by rw [sq]; rfl) (by rw [sq]; exact fresh)
    (by rw [h.only.fu]; exact free) (by rw [h.only.fu]; exact buffer)
  rw [sq, h.only.fu] at resumed
  have reached : Reached (examinedHead (s.sq.passed later last) s.fu.expectedSequence q) false s (resumeRun r.state) :=
    ExaminedTo.reached (m := m) resumed h.only.fu
  have after : examineAfter r = resumeRun r.state := by rw [examineAfter, if_pos runs]
  rw [← after] at reached
  exact reached.afterReleases h.going (examinedHead_whole rfl _ _)

/-- A waiting head is tried again once an entry has been freed (R60). -/
theorem Releasing.retries (h : Releasing later last s r) (waiting : s.sq.headAccepted = true)
    (whole : s.sq.runDivided = false) :
    examineAfter r = examineRun s.fu.cueBuffer r.state ∧ r.state.sq.headAccepted = true ∧
    ∃ m, r.state.sq = (s.sq.passed later last).reach m false s.sq := by
  obtain ⟨m, sq⟩ := h.sq
  rw [whole] at sq
  have marked : r.state.sq.headAccepted = true := by rw [sq]; exact waiting
  refine ⟨?_, marked, m, sq⟩
  rw [examineAfter, if_neg (by rw [sq]; exact Bool.false_ne_true), h.freed, if_pos rfl, retryHead, if_pos marked,
    examineHead_live (by rw [sq]; rfl), h.only.fu]

variable {p : CueRecord} {acts : List Action}

/-- A waiting head without room goes on waiting (R60). -/
theorem Releasing.goesOnWaiting (h : Releasing later last s r) (waiting : s.sq.headAccepted = true)
    (whole : s.sq.runDivided = false) (actions : p.actions = some acts) {rest : List CueRecord}
    (buffer : s.fu.cueBuffer = p :: rest) (full : 512 < later.length + acts.length) :
    (∃ m, (afterReleases r).sq = (s.sq.passed later last).reach m r.holdCalled s.sq) ∧
    (afterReleases r).fu = s.fu := by
  obtain ⟨after, marked, m, sq⟩ := h.retries waiting whole
  have waits : settleHead p rest r.state = { state := r.state, left := false } :=
    settleHead_waits actions (by rw [sq]; exact not_le.mpr full) rest
  have record : examineRecord p rest r.state = { state := r.state, left := false } := by
    rw [examineRecord, if_pos marked, waits]
  have kept : examineAfter r = r.state := by
    rw [after, buffer, examineRun_stays (by rw [record]), record]
  obtain ⟨sq', fu', -⟩ := afterReleases_reach (x := s.sq.passed later last) h.going (by rw [kept]; exact sq) rfl
  exact ⟨⟨m, sq'⟩, by rw [fu', kept]; exact h.only.fu⟩

/-- The sequencer after a waiting record has been expanded at the position reached. -/
def Sequencer.expanded (x : Sequencer) (p : CueRecord) (acts : List Action) : Sequencer :=
  { withEntries x p acts with headAccepted := false }

/-- A waiting head with room is expanded at the position reached (R60). -/
theorem Releasing.expands (h : Releasing later last s r) (waiting : s.sq.headAccepted = true)
    (whole : s.sq.runDivided = false) (actions : p.actions = some acts) (rest : List CueRecord)
    (fits : later.length + acts.length ≤ 512) :
    examineRecord p rest r.state = { state := expandHead p acts rest r.state, left := true } ∧
    (expandHead p acts rest r.state).fu = { s.fu with cueBuffer := rest } ∧
    ∃ m, (expandHead p acts rest r.state).sq = ((s.sq.passed later last).expanded p acts).reach m false s.sq := by
  obtain ⟨-, marked, m, sq⟩ := h.retries waiting whole
  have record : settleHead p rest r.state = _ := settleHead_fits actions (by rw [sq]; exact fits) rest
  refine ⟨by rw [examineRecord, if_pos marked, record], ?_, m, ?_⟩
  · rw [← h.only.fu]; rfl
  · rw [expandHead, expand_eq_withEntries, sq, withEntries_reach]; rfl

/-- A waiting head with room and nothing behind it. -/
theorem Releasing.expandsAlone (h : Releasing later last s r) (waiting : s.sq.headAccepted = true)
    (whole : s.sq.runDivided = false) (actions : p.actions = some acts) (buffer : s.fu.cueBuffer = [p])
    (fits : later.length + acts.length ≤ 512) :
    (∃ m, (afterReleases r).sq = ((s.sq.passed later last).expanded p acts).reach m r.holdCalled s.sq) ∧
    (afterReleases r).fu = { s.fu with cueBuffer := [] } := by
  obtain ⟨after, -, -⟩ := h.retries waiting whole
  obtain ⟨record, fu, m, sq⟩ := h.expands waiting whole actions [] fits
  have kept : examineAfter r = expandHead p acts [] r.state := by rw [after, buffer, examineRun_one, record]
  obtain ⟨sq', fu', -⟩ := afterReleases_reach h.going (by rw [kept]; exact sq) rfl
  exact ⟨⟨m, sq'⟩, by rw [fu', kept]; exact fu⟩

/-- The record behind an expanded head is examined at once where the run meets no advance or goes on before it, and after the
hold that an advance finds in its way (R51, R60). -/
theorem Releasing.expandsThenExamines (h : Releasing later last s r) (waiting : s.sq.headAccepted = true)
    (whole : s.sq.runDivided = false) (actions : p.actions = some acts) {q : CueRecord}
    (buffer : s.fu.cueBuffer = [p, q]) (free : s.fu.cueBlocked = false) (fits : later.length + acts.length ≤ 512) :
    (r.holdCalled = false → advanceWaits (expandHead p acts [q] r.state) = true →
      Config.advanceDivides s.meetings = true →
      (∃ m, (afterReleases r).sq =
        { (s.sq.passed later last).expanded p acts with runDivided := true }.reach m false s.sq) ∧
      (afterReleases r).fu = { s.fu with cueBuffer := [q] }) ∧
    (¬(r.holdCalled = false ∧ advanceWaits (expandHead p acts [q] r.state) = true ∧
        Config.advanceDivides s.meetings = true) →
      Reached (examinedHead ((s.sq.passed later last).expanded p acts) s.fu.expectedSequence q) r.holdCalled s
        (afterReleases r)) := by
  obtain ⟨after, -, -⟩ := h.retries waiting whole
  obtain ⟨record, fu, m, sq⟩ := h.expands waiting whole actions [q] fits
  have meetings : (expandHead p acts [q] r.state).meetings = s.meetings := h.only.meetings
  have meets : runMeets [q] (expandHead p acts [q] r.state) = advanceWaits (expandHead p acts [q] r.state) := by
    rw [runMeets, fu]; simp [free]
  have run : examineAfter r = examineRun [p, q] r.state := by rw [after, buffer]
  generalize expandHead p acts [q] r.state = e at record fu sq meetings meets
  have examined : ∀ n, Reached (examinedHead ((s.sq.passed later last).expanded p acts) s.fu.expectedSequence q) false s
      (examineRun [q] (e.setMeetings n)) := fun n => by
    have one := examineRun_single (q := q) (s := e.setMeetings n) (by rw [sq_setMeetings, sq]; rfl)
      (by rw [fu_setMeetings, fu]; exact free) (by rw [fu_setMeetings, fu])
    rw [sq_setMeetings, fu_setMeetings, sq, fu] at one
    exact one.reached fu
  have goesOn : examineAfter r = examineRun [q] (e.setMeetings e.meetings) ∨
      examineAfter r = examineRun [q] (countMeeting e) →
      Reached (examinedHead ((s.sq.passed later last).expanded p acts) s.fu.expectedSequence q) r.holdCalled s
        (afterReleases r) := fun which => by
    refine Reached.afterReleases ?_ h.going (examinedHead_whole rfl _ _)
    rcases which with same | same <;> rw [same]
    · exact examined _
    · exact examined _
  by_cases divides : advanceWaits e = true ∧ Config.advanceDivides s.meetings = true
  · have halted : examineAfter r = divideRun (countMeeting e) := by
      rw [run, examineRun_meets (by rw [record]) (by rw [record, meets, divides.1]), record, meetings, if_pos divides.2]
    have divided : (examineAfter r).sq = { (s.sq.passed later last).expanded p acts with runDivided := true }.reach m
        false s.sq := by rw [halted, divideRun, sq_setSq, countMeeting, sq_setMeetings, sq]; rfl
    have left : (examineAfter r).fu = { s.fu with cueBuffer := [q] } := by rw [halted]; exact fu
    cases called : r.holdCalled
    · have ends : afterReleases r = examineAfter r := by simp [afterReleases, h.going, called]
      rw [ends]
      exact ⟨fun _ _ _ => ⟨⟨m, divided⟩, left⟩, fun other => absurd ⟨rfl, divides⟩ other⟩
    · have ends : afterReleases r = resumeRun (holdForHost (examineAfter r)) := by
        simp [afterReleases, h.going, called]
      have held := holdForHost_reach divided
      have heldFu : (holdForHost (examineAfter r)).fu = { s.fu with cueBuffer := [q] } := left
      have one := resumeRun_single (q := q) (s := holdForHost (examineAfter r)) (by rw [held]; rfl) rfl
        (by rw [held]; rfl) (by rw [heldFu]; exact free) (by rw [heldFu])
      rw [held, heldFu] at one
      rw [ends]
      refine ⟨fun none => absurd none (by decide), fun _ => ?_⟩
      exact ExaminedTo.reached (x := (s.sq.passed later last).expanded p acts) (m := m) one heldFu
  · refine ⟨fun _ waits first => absurd ⟨waits, first⟩ divides, fun _ => goesOn ?_⟩
    by_cases waits : advanceWaits e = true
    · have runFirst : ¬Config.advanceDivides s.meetings = true := fun first => divides ⟨waits, first⟩
      right
      rw [run, examineRun_meets (by rw [record]) (by rw [record, meets, waits]), record, meetings, if_neg runFirst]
    · left
      rw [run, examineRun_goesOn (by rw [record]) (by rw [record, meets]; simpa using waits), record]
      rfl

end

end Sys2Proof.Machine
end

section
/-! Proofs: the frame periods that bring an advance. -/

namespace Sys2Proof.Machine

/-- What a frame period leaves beside sequencer, fetch unit, report unit and light, when its advance leaves `b` with nothing
due. -/
theorem PeriodDone.headOnly {b r t : State} (done : PeriodDone r t) (only : HeadOnly b r) :
    t.au = { b.au with monitors := t.au.monitors, lines := t.au.lines } ∧ t.wu = b.wu ∧ t.gu = b.gu ∧ t.ls = b.ls ∧
    GroundKept b t ∧ PathKept b t :=
  ⟨by rw [done.au, only.au], done.wu.trans only.wu, done.gu.trans only.gu, done.ls.trans only.ls,
    done.ground.of_eq only.inReset only.mem, done.path.of_eq only.pu⟩

/-- What a frame period leaves beside sequencer, fetch unit, report unit, water and light, when its advance from `b` releases
the entries due. -/
theorem PeriodDone.releasing {later : List ReleaseEntry} {last : ReleaseEntry} {b t : State} {r : Released}
    (done : PeriodDone (afterReleases r) t) (h : Releasing later last b r) :
    t.au = { b.au with monitors := t.au.monitors, lines := t.au.lines } ∧ t.wu.output = b.wu.output ∧ t.gu = b.gu ∧
    t.ls = b.ls ∧ GroundKept b t ∧ PathKept b t := by
  have after := afterReleases_headOnly r
  refine ⟨?_, ?_, done.gu.trans (after.gu.trans h.only.gu), done.ls.trans (after.ls.trans h.only.ls),
    done.ground.of_eq (after.inReset.trans h.only.inReset) (after.mem.trans h.only.mem),
    done.path.of_eq (after.pu.trans h.only.pu)⟩
  · rw [done.au, after.au, h.only.au]
  · rw [done.wu, after.wu, h.output]

/-- The advance of a show with entries due is the end of its releases. -/
theorem advance_releases {s : State} (limit : s.sq.position ≠ 0xFFFFFFFF) :
    advance s = afterReleases (releases s) := advance_moves limit

/-- The position reached is the last one exactly when the position before it was the last but one. -/
theorem succ_eq_last {p : Word} (limit : p ≠ 0xFFFFFFFF) : p + 1 = 0xFFFFFFFF ↔ p.toNat + 1 = 4294967295 := by
  rw [← toNat_succ limit]
  exact ⟨fun h => by rw [h]; rfl, fun h => BitVec.eq_of_toNat_eq h⟩

/-- Between an expanded head and the record behind it an advance waits exactly when a frame period that brings one comes
next. -/
theorem Releasing.waits_iff {later : List ReleaseEntry} {last : ReleaseEntry} {b : State} {r : Released}
    (h : Releasing later last b r) {p q : CueRecord} {acts : List Action} (waiting : b.sq.headAccepted = true)
    (whole : b.sq.runDivided = false) (actions : p.actions = some acts) (fits : later.length + acts.length ≤ 512)
    (clock : b.au.clock.isSome = true) (limit : b.sq.position ≠ 0xFFFFFFFF) :
    advanceWaits (expandHead p acts [q] r.state) = true ↔
      b.pending.head? = some .framePeriod ∧ b.sq.position.toNat + 1 ≠ 4294967295 ∧
      (b.au.fifo ≠ [] ∨ (b.fu.final = true ∧ b.fu.audioFetch = b.fu.audioMark)) := by
  obtain ⟨-, fu, m, sq⟩ := h.expands waiting whole actions [q] fits
  have au : (expandHead p acts [q] r.state).au = b.au := h.only.au
  have pending : (expandHead p acts [q] r.state).pending = b.pending := h.only.pending
  have position : (b.sq.position + 1 ≠ 0xFFFFFFFF) ↔ b.sq.position.toNat + 1 ≠ 4294967295 := (succ_eq_last limit).not
  rw [advanceWaits_iff, AdvanceNext, au, pending, fu, sq, ← position]
  constructor
  · rintro ⟨-, below, ⟨-, plays, next⟩ | ⟨starved, -⟩⟩
    · exact ⟨next, below, plays⟩
    · cases starved
  · rintro ⟨next, below, plays⟩
    exact ⟨clock, below, .inl ⟨rfl, plays, next⟩⟩

/-- A sequencer that has been reached, with the hold as the statements have it. -/
theorem reach_if {x b : Sequencer} {m : Option LastMark} {called : Bool} {held : Prop} [Decidable held]
    (h : called = true ↔ held) : x.reach m called b = { x with
      lastMark := m
      state := if held then .held else .running
      holdHost := if held then true else b.holdHost
      holdPending := if held then .clear else b.holdPending } := by
  by_cases k : held
  · rw [h.mpr k, if_pos k, if_pos k, if_pos k]; rfl
  · have none : called = false := by simpa using mt h.mp k
    rw [none, if_neg k, if_neg k, if_neg k]; rfl

end Sys2Proof.Machine

open Sys2Proof Sys2Proof.Machine

/-- Settles O41: the frame period of a STARVED show, by its resume test. -/
theorem starvedShowResumesOrCounts : Obligations.StarvedShowResumesOrCounts := by
  unfold Obligations.StarvedShowResumesOrCounts
  intro s out clock starved
  dsimp only
  rw [← resumeTest_iff]
  refine ⟨fun passes limit none c row => ?_, fun due later last passes limit fresh whole table all stop c row => ?_,
    fun passes limit c row => ?_, fun fails below => ?_, fun fails => ?_⟩
  · have only := advance_none_headOnly (s := setShow .running (dropFrame s)) limit none
    have advanced := advance_none (s := setShow .running (dropFrame s)) limit none
    refine ⟨fun whole => ?_, fun q divided buffer fresh free => ?_⟩
    · refine completes_resume row out clock starved passes fun t done => ?_
      rw [reported_starved starved passes] at done
      obtain ⟨au, wu, gu, ls, ground, path⟩ := done.headOnly only
      rw [advanced, resumeRun_whole (s := moved (setShow .running (dropFrame s))) whole] at done
      refine ⟨?_, done.fetch, done.report, ?_, ?_, wu, gu, ls, ground, path⟩
      · rw [done.sq, ← whole]; rfl
      all_goals rw [au]; rfl
    · have one := resumeRun_single (s := moved (setShow .running (dropFrame s))) divided rfl fresh free buffer
      refine completes_resume row out clock starved passes fun t done => ?_
      rw [reported_starved starved passes] at done
      obtain ⟨au, wu, gu, ls, ground, path⟩ := done.headOnly only
      have fetch := done.fetch
      have report := done.report
      rw [FetchKept, advanced, one.fu] at fetch
      rw [ReportKept, advanced, one.ru] at report
      refine ⟨?_, fetch, report, ?_, ?_, wu, gu, ls, ground, path⟩
      · rw [done.sq, advanced]; exact one.sq
      all_goals rw [au]; rfl
  · have running : (setShow .running (dropFrame s)).sq.state = .running := rfl
    obtain ⟨h, called⟩ := releases_all (s := setShow .running (dropFrame s)) running limit table all stop
    obtain ⟨⟨m, sq⟩, fu⟩ := h.unexamined fresh whole
    refine completes_resume row out clock starved passes fun t done => ?_
    rw [reported_starved starved passes, advance_releases (s := setShow .running (dropFrame s)) limit] at done
    obtain ⟨au, output, gu, ls, ground, path⟩ := done.releasing h
    have passed : (setShow .running (dropFrame s)).sq.passed later last = { s.sq with
        state := .running, position := s.sq.position + 1, table := later, lastReleased := some last.source } := by
      rw [Sequencer.passed, ← whole]; rfl
    have reached := done.sq.trans sq
    rw [reach_if called, passed] at reached
    refine ⟨?_, ?_, ?_, output, gu, ls, ground, done.fetch.of_eq fu, path⟩
    · rw [reached]; rfl
    all_goals rw [au]; rfl
  · have tripped := takeFault_tripped .positionLimit (s := setShow .running (dropFrame s)) rfl
    refine completes_resume row out clock starved passes fun t done => ?_
    rw [reported_starved starved passes, advance_limit (s := setShow .running (dropFrame s)) limit] at done
    have sq := done.sq.trans tripped.sq
    rw [sq]
    refine ⟨rfl, rfl, rfl, rfl, ?_, rfl, rfl, ?_, done.report.raised tripped.ru, ?_, fun p => ?_, ?_,
      done.gu.trans tripped.gu, done.ls.trans tripped.ls, done.ground.of_eq tripped.inReset tripped.mem⟩
    · rw [← limit]; rfl
    · rw [done.au, tripped.au]; rfl
    · rw [done.wu]; exact tripped.wanted
    · rw [done.wu]; exact tripped.commanded p
    · rw [done.wu]; exact tripped.output
  · refine completes_framePeriod out clock fun t done => ?_
    have counts : countStarved s = s.setSq { s.sq with starveCount := s.sq.starveCount + 1 } := by
      rw [countStarved, starveLimitTest, if_neg fun reached => below reached.2]
    rw [reported_counts starved (by simpa using fails), counts] at done
    refine ⟨done.sq, ?_, ?_, done.wu, done.gu, done.ls, done.ground, done.fetch, done.path, done.report⟩
    all_goals rw [done.au]; rfl
  · refine completes_event (f := resumePeriod) rfl out ?_
    rw [resumePeriod, if_neg fun passes => fails passes.2]
    exact nothingDone_settle s

/-- Settles O39: the advance of a RUNNING show with nothing due, with entries due, and with a head to be examined after
them. -/
theorem framePeriodAdvances : Obligations.FramePeriodAdvances := by
  unfold Obligations.FramePeriodAdvances
  refine ⟨fun s out clock running limit none plays => ?_,
    fun s due later last out clock running limit plays table all stop => ?_⟩
  · have only := advance_none_headOnly (s := dropFrame s) limit none
    have advanced := advance_none (s := dropFrame s) limit none
    refine ⟨fun whole => ?_, fun q divided buffer fresh free => ?_⟩
    · refine completes_framePeriod out clock fun t done => ?_
      rw [reported_running running plays] at done
      obtain ⟨au, wu, gu, ls, ground, path⟩ := done.headOnly only
      rw [advanced, resumeRun_whole (s := moved (dropFrame s)) whole] at done
      refine ⟨done.sq, done.fetch, done.report, ?_, ?_, ?_, ?_, wu, gu, ls, ground, path⟩
      all_goals rw [au]; rfl
    · have live : (moved (dropFrame s)).sq.state.live = true := by
        rw [show (moved (dropFrame s)).sq.state = .running from running]; rfl
      have one := resumeRun_single (s := moved (dropFrame s)) divided live fresh free buffer
      refine completes_framePeriod out clock fun t done => ?_
      rw [reported_running running plays] at done
      obtain ⟨au, wu, gu, ls, ground, path⟩ := done.headOnly only
      have fetch := done.fetch
      have report := done.report
      rw [FetchKept, advanced, one.fu] at fetch
      rw [ReportKept, advanced, one.ru] at report
      refine ⟨?_, fetch, report, ?_, ?_, ?_, ?_, wu, gu, ls, ground, path⟩
      · rw [done.sq, advanced]; exact one.sq
      all_goals rw [au]; rfl
  · obtain ⟨h, called⟩ := releases_all (s := dropFrame s) running limit table all stop
    intro held meets released reached examined
    have heldWhen : (releases (dropFrame s)).holdCalled = true ↔ held := called
    have completes : ∀ P : State → Prop,
        (∀ t, PeriodDone (afterReleases (releases (dropFrame s))) t → P t) → Completes .framePeriod s P :=
      fun P all => completes_framePeriod out clock fun t done => all t (by
        rw [reported_running running plays, advance_releases (s := dropFrame s) limit] at done; exact done)
    have reaches : ∀ (x : Sequencer) (t : State), PeriodDone (afterReleases (releases (dropFrame s))) t →
        (∃ m, (afterReleases (releases (dropFrame s))).sq = x.reach m (releases (dropFrame s)).holdCalled s.sq) →
        reached x t := by
      rintro x t done ⟨m, sq⟩
      obtain ⟨au, output, gu, ls, ground, path⟩ := done.releasing h
      have reachedSq := done.sq.trans sq
      rw [reach_if heldWhen] at reachedSq
      refine ⟨?_, ?_, output, gu, ls, ground, path⟩
      · rw [reachedSq]
      · rw [au]; rfl
    have examines : ∀ (x : Examined) (t : State), PeriodDone (afterReleases (releases (dropFrame s))) t →
        Reached x (releases (dropFrame s)).holdCalled (dropFrame s) (afterReleases (releases (dropFrame s))) →
        examined x t := by
      intro x t done after
      have fetch := done.fetch
      rw [FetchKept, after.fu] at fetch
      refine ⟨reaches x.sq t done after.sq, fetch, fun raised => ?_⟩
      have report := done.report
      rw [ReportKept] at report
      rw [report]; exact after.raised raised
    refine ⟨fun fresh whole => ?_, fun q fresh divided buffer free => ?_, fun r acts waiting whole actions => ?_⟩
    · obtain ⟨sq, fu⟩ := h.unexamined fresh whole
      exact completes _ fun t done => ⟨reaches _ t done sq, done.fetch.of_eq fu⟩
    · exact completes _ fun t done => examines _ t done (h.divided fresh divided buffer free)
    · refine ⟨fun buffer fits => ?_, fun q buffer free fits => ?_, fun rest buffer full => ?_⟩
      · obtain ⟨sq, fu⟩ := h.expandsAlone waiting whole actions buffer fits
        refine completes _ fun t done => ⟨reaches _ t done sq, ?_⟩
        have fetch := done.fetch
        rw [FetchKept, fu] at fetch
        exact fetch
      · obtain ⟨divides, goesOn⟩ := h.expandsThenExamines waiting whole actions buffer free fits
        have waits := h.waits_iff (q := q) waiting whole actions fits clock limit
        refine completes _ fun t done => ?_
        have notCalled : (releases (dropFrame s)).holdCalled = false ↔ ¬held := by
          rw [← heldWhen, Bool.not_eq_true]
        split
        case isTrue first =>
          obtain ⟨runs, meeting, order⟩ := first
          have none := notCalled.mpr runs
          obtain ⟨⟨m, sq⟩, fu⟩ := divides none (waits.mpr meeting) order
          have fetch := done.fetch
          rw [FetchKept, fu] at fetch
          exact ⟨reaches _ t done ⟨m, by rw [none]; exact sq⟩, fetch⟩
        case isFalse other =>
          exact examines _ t done (goesOn fun ⟨runs, meeting, order⟩ =>
            other ⟨notCalled.mp runs, waits.mp meeting, order⟩)
      · obtain ⟨sq, fu⟩ := h.goesOnWaiting waiting whole actions buffer full
        exact completes _ fun t done => ⟨reaches _ t done sq, done.fetch.of_eq fu⟩

end

section
/-! Proofs: captured words, and with them mark writes, RING_RESET and SPACE_TRIGGERS. -/

namespace Sys2Proof.Machine

/-! ## Captured words -/

/-- What a captured word leaves: the effect `a` of its capture, and the word forwarded (R168, R171). -/
structure CaptureDone (w : BusWrite) (a t : State) : Prop where
  sq : t.sq = a.sq
  au : t.au = a.au
  plant : PlantKept a t
  fetch : FetchKept a t
  ground : GroundKept a t
  report : ReportKept a t
  path : Forwarded w a t

theorem captureDone_settle (w : BusWrite) (a : State) : CaptureDone w a (settle (pushWord w false a)) := by
  obtain ⟨sq, au, wu, lu, gu, ls, fu, ru, mem, inReset⟩ := pushWord_beside w false a
  exact {
    sq := (settle_sq _).trans sq
    au := (settle_au _).trans au
    plant := ⟨(settle_wu _).trans wu, (settle_lu _).trans lu, (settle_gu _).trans gu, (settle_ls _).trans ls⟩
    fetch := fetchKept_settle fu
    ground := groundKept_of ((settle_inReset _).trans inReset) ((settle_mem _).trans mem)
    report := reportKept_settle ru
    path := rfl }

/-- A full write to a defined word completes with the effect of its capture and the word forwarded (R171). -/
theorem completes_captured {c : Instr} {offset : Nat} {value : Word} {burst : Bool} {capture : State → State} {s : State}
    {P : State → Prop} (row : exec c s = answer (captured offset value burst capture s)) (path : PathDecides burst s)
    (h : ∀ t, CaptureDone (fullWrite s.pu.base offset value burst) (capture s) t → P t) : Completes c s P := by
  rw [captured_decides path] at row
  exact ⟨_, row, h _ (captureDone_settle _ _)⟩

theorem Forwarded.of_eq {w : BusWrite} {s a t : State} (h : Forwarded w a t) (pu : a.pu = s.pu) : Forwarded w s t := by
  rw [Forwarded, ← pushWord_pu_congr w false pu]; exact h

theorem pushWord_port (w : BusWrite) (refused : Bool) (s : State) : (pushWord w refused s).pu.port = s.pu.port := by
  unfold pushWord; dsimp only; split <;> rfl

theorem Forwarded.port {w : BusWrite} {a t : State} (h : Forwarded w a t) : t.pu.port = a.pu.port := by
  rw [h]; exact pushWord_port w false a

/-! ## Mark writes (R29, R30, R31) -/

/-- R29: the conditions of a CUE_MARK write and the mark it proposes. -/
theorem acceptedCueMark_eq (x : FetchUnit) (value : Word) : acceptedCueMark x value =
    if value.toNat < 4096 ∧ cuePublished x ≤ (Fin.ofNat Config.cueSlots value.toNat - x.cueFetch).val then
      some (Fin.ofNat Config.cueSlots value.toNat)
    else none := by
  unfold acceptedCueMark
  by_cases slot : value.toNat < 4096
  · have same : (⟨value.toNat, slot⟩ : Fin Config.cueSlots) = Fin.ofNat Config.cueSlots value.toNat :=
      Fin.ext (Nat.mod_eq_of_lt slot).symm
    rw [dif_pos slot, same]
    simp only [slot, true_and]
  · rw [dif_neg slot, if_neg fun k => slot k.1]

/-- R30: the conditions of an AUDIO_MARK write and the mark it proposes. -/
theorem acceptedAudioMark_eq (x : FetchUnit) (value : Word) :
    let mark := Fin.ofNat Config.audioSlots (value.extractLsb' 0 17).toNat
    acceptedAudioMark x value =
      if (value.extractLsb' 0 17).toNat < 114688 ∧ x.final = false ∧ value.extractLsb' 17 14 = 0 ∧
        audioPublished x ≤ (mark - x.audioFetch).val then some mark
      else none := by
  dsimp only
  unfold acceptedAudioMark
  by_cases slot : (value.extractLsb' 0 17).toNat < 114688
  · have same : (⟨(value.extractLsb' 0 17).toNat, slot⟩ : Fin Config.audioSlots) =
        Fin.ofNat Config.audioSlots (value.extractLsb' 0 17).toNat := Fin.ext (Nat.mod_eq_of_lt slot).symm
    rw [dif_pos slot, same]
    simp only [slot, true_and]
  · rw [dif_neg slot, if_neg fun k => slot k.1]

theorem writeCueMark_accepted {value : Word} {v : Fin Config.cueSlots} {s : State}
    (h : acceptedCueMark s.fu value = some v) : writeCueMark value s = s.setFu { s.fu with cueMark := v } := by
  simp only [writeCueMark, h]

theorem writeCueMark_fault {value : Word} {s : State} (h : acceptedCueMark s.fu value = none) :
    writeCueMark value s = markFault s := by simp only [writeCueMark, h]

theorem writeAudioMark_accepted {value : Word} {v : Fin Config.audioSlots} {s : State}
    (h : acceptedAudioMark s.fu value = some v) : writeAudioMark value s =
      primingTest (s.setFu { s.fu with audioMark := v, final := value.getLsbD 31 }) := by
  simp only [writeAudioMark, h]

theorem writeAudioMark_fault {value : Word} {s : State} (h : acceptedAudioMark s.fu value = none) :
    writeAudioMark value s = markFault s := by simp only [writeAudioMark, h]

/-- A mark fault leaves everything but its flag and the pending set (R31). -/
theorem CaptureDone.markFault {w : BusWrite} {s t : State} (h : CaptureDone w (markFault s) t) :
    t.fu = { s.fu with markFault := true, fetchRequest := t.fu.fetchRequest } ∧
    ShowKept s t ∧ PlantKept s t ∧ GroundKept s t ∧ ReportRaised .cue s t ∧ Forwarded w s t :=
  ⟨h.fetch, ⟨h.sq, h.au⟩, h.plant, h.ground, h.report.raised rfl, h.path.of_eq rfl⟩

/-- The fields of the value an AUDIO_MARK write carries, for a mark and a final flag (R30). -/
theorem audioMark_fields (v : Fin Config.audioSlots) (final : Bool) :
    let value := BitVec.ofNat 32 (v.val + if final then 2147483648 else 0)
    (value.extractLsb' 0 17).toNat = v.val ∧ value.extractLsb' 17 14 = 0 ∧ value.getLsbD 31 = final := by
  have slot : v.val < 114688 := v.isLt
  have small : v.val + (if final then 2147483648 else 0) < 2 ^ 32 := by split <;> omega
  refine ⟨?_, BitVec.eq_of_toNat_eq ?_, ?_⟩
  · rw [BitVec.extractLsb'_toNat, BitVec.toNat_ofNat, Nat.mod_eq_of_lt small, Nat.shiftRight_zero]
    split <;> omega
  · rw [BitVec.extractLsb'_toNat, BitVec.toNat_ofNat, Nat.mod_eq_of_lt small, Nat.shiftRight_eq_div_pow]
    change _ = 0
    split <;> omega
  · rw [BitVec.getLsbD_ofNat, Nat.testBit_eq_decide_div_mod_eq]
    cases final
    · simp; omega
    · simp; omega

/-! ## Priming (R4) -/

/-- The sequencer after the priming test (R4, R6). -/
theorem primingTest_sq {s : State} (priming : s.sq.state = .priming) : (primingTest s).sq =
    if 512 ≤ s.au.fifo.length ∨ (s.fu.final = true ∧ s.fu.audioFetch = s.fu.audioMark) then
      if s.sq.sync = .wait then { s.sq with state := .armed }
      else { s.sq with
        state := if anyMatched s .hold = true then .held else .running
        holdInterlock := s.sq.holdInterlock || anyMatched s .hold }
    else s.sq := by
  by_cases ready : primed s = true
  · rw [if_pos ((primed_iff s).mp ready)]
    cases sync : s.sq.sync
    case immediate => rw [primingTest_immediate priming ready sync, enterRunning_sq]; rfl
    case wait => rw [primingTest_wait priming ready sync]; rfl
  · rw [primingTest_unready (.inr (by simpa using ready)), if_neg (mt (primed_iff s).mpr ready)]

theorem primingTest_others {s : State} (h : s.sq.state ≠ .priming) : (primingTest s).sq = s.sq := by
  rw [primingTest_unready (.inl h)]

theorem primingTest_fu (s : State) : (primingTest s).fu = s.fu := by rw [primingTest_frame]; rfl
theorem primingTest_au (s : State) : (primingTest s).au = s.au := by rw [primingTest_frame]; rfl
theorem primingTest_pu (s : State) : (primingTest s).pu = s.pu := by rw [primingTest_frame]; rfl
theorem primingTest_ru (s : State) : (primingTest s).ru = s.ru := by rw [primingTest_frame]; rfl

/-- The priming test leaves water, light, guard unit and limits, RESET_N and memory. -/
theorem primingTest_beside (s : State) : PlantKept s (primingTest s) ∧ (primingTest s).inReset = s.inReset ∧
    (primingTest s).mem = s.mem := by
  rw [primingTest_frame]; exact ⟨⟨rfl, rfl, rfl, rfl⟩, rfl, rfl⟩

theorem PlantKept.trans {s r t : State} (h : PlantKept s r) (k : PlantKept r t) : PlantKept s t := by
  obtain ⟨wu, lu, gu, ls⟩ := h
  obtain ⟨wu', lu', gu', ls'⟩ := k
  exact ⟨wu'.trans wu, lu'.trans lu, gu'.trans gu, ls'.trans ls⟩

/-! ## Commands of the rings -/

/-- A partial write to a mark word is decided without a capture: the word is forwarded alone (R171). -/
theorem decideWord_partialMark {w : BusWrite} {progEn : Bool} {s : State} (path : PathDecides w.burst s)
    (base : inWindow s.pu.base w.address = true)
    (mark : windowOffset w.address = 0x040 ∨ windowOffset w.address = 0x044) (enables : w.enables ≠ 15) :
    decideWord w progEn s = pushWord w false s := by
  have region : regionOfOffset (windowOffset w.address) = .commandPage := by
    rcases mark with mark | mark <;> rw [mark] <;> rfl
  have other : windowOffset w.address ≠ Config.showCmd := by
    rcases mark with mark | mark <;> rw [mark] <;> decide
  have admits : refusesWord s w.address = false := by rw [refusesWord, regionOf, if_pos base, region]
  have capture : captureWord w progEn s = s := by rw [captureWord, if_pos base, if_neg enables, if_neg other]
  unfold decideWord
  rw [transparent_decides path, admits, capture]
  simp

end Sys2Proof.Machine

open Sys2Proof Sys2Proof.Machine

/-- Settles O14: SPACE_TRIGGERS by its two arguments, and the reset values. -/
theorem spaceTriggersSet : Obligations.SpaceTriggersSet := by
  unfold Obligations.SpaceTriggersSet
  refine ⟨fun s burst path => ?_, fun s => ⟨_, rfl, rfl, rfl⟩⟩
  split
  case isTrue range =>
    refine completes_accepted (act := takeTriggers) rfl path (by rw [triggersOutcome, decide_eq_true range]; rfl) rfl rfl
      fun t done => ?_
    exact ⟨done.fetch, ⟨done.sq, done.au⟩, ⟨done.wu, done.lu, done.gu, done.ls⟩, done.ground, done.posted, done.recorded⟩
  case isFalse range =>
    exact completes_refused (outcome := triggersOutcome) rfl path
      (by rw [triggersOutcome, decide_eq_false range]; rfl) (by decide)

/-- Settles O13: RING_RESET by the show state. -/
theorem ringResetEmptiesRings : Obligations.RingResetEmptiesRings := by
  unfold Obligations.RingResetEmptiesRings
  intro s burst path
  refine ⟨fun idle => ?_, fun other => completes_refused rfl path (stateThenArg_refused true (by simp [inState, other]))
    (by decide)⟩
  have accepted : ringResetOutcome s = .accepted := stateThenArg_of_state true (by simp [inState, idle])
  have effect : takeCommand 0x06 (ringResetOutcome s) resetRings s = recordResult 0x06 .accepted (resetRings s) := by
    rw [takeCommand, accepted, if_pos rfl]
  refine completes_captured rfl path fun t done => ?_
  rw [effect] at done
  have fu := done.fetch
  rw [FetchKept] at fu
  exact ⟨fu, by rw [fu]; rfl, by rw [fu]; rfl, done.sq, done.au, done.path.port, done.plant, done.ground, done.report⟩

/-- Settles O9: the accepted writes to CUE_MARK and AUDIO_MARK, by the conditions of R29 and R30. -/
theorem acceptedMarkMoves : Obligations.AcceptedMarkMoves := by
  unfold Obligations.AcceptedMarkMoves
  refine ⟨fun s v burst path grows => ?_, fun s v final burst path unfinished grows => ?_⟩
  · have value : (BitVec.ofNat 32 v.val).toNat = v.val :=
      (BitVec.toNat_ofNat ..).trans (Nat.mod_eq_of_lt (v.isLt.trans (by decide)))
    have mark : Fin.ofNat Config.cueSlots v.val = v := Fin.ofNat_val_eq_self v
    have accepted : acceptedCueMark s.fu (BitVec.ofNat 32 v.val) = some v := by
      rw [acceptedCueMark_eq, value, mark, if_pos ⟨v.isLt, grows⟩]
    refine completes_captured rfl path fun t done => ?_
    rw [writeCueMark_accepted accepted] at done
    have fu := done.fetch
    rw [FetchKept] at fu
    exact ⟨fu, by rw [fu]; rfl, ⟨done.sq, done.au⟩, done.plant, done.ground, done.report, done.path.of_eq rfl⟩
  · obtain ⟨field, zero, flag⟩ := audioMark_fields v final
    have mark : Fin.ofNat Config.audioSlots v.val = v := Fin.ofNat_val_eq_self v
    have accepted : acceptedAudioMark s.fu (BitVec.ofNat 32 (v.val + if final then 2147483648 else 0)) = some v := by
      rw [acceptedAudioMark_eq, field, mark, if_pos ⟨v.isLt, unfinished, zero, grows⟩]
    refine completes_captured rfl path fun t done => ?_
    rw [writeAudioMark_accepted accepted, flag] at done
    obtain ⟨plant, inReset, mem⟩ := primingTest_beside (s.setFu { s.fu with audioMark := v, final := final })
    have fu := done.fetch
    rw [FetchKept, primingTest_fu] at fu
    exact ⟨fu, by rw [fu]; rfl, fun other => done.sq.trans (primingTest_others other),
      fun priming => done.sq.trans (primingTest_sq priming), done.au.trans (primingTest_au _),
      PlantKept.trans (s := s) plant done.plant, done.ground.of_eq inReset mem, done.report.of_eq (primingTest_ru _),
      done.path.of_eq (primingTest_pu _)⟩

/-- Settles O10: the mark faults of both rings, and partial writes to the mark words. -/
theorem markFaultLeavesMarks : Obligations.MarkFaultLeavesMarks := by
  unfold Obligations.MarkFaultLeavesMarks
  refine ⟨fun s value burst path fails => ?_, fun s value burst path fails => ?_,
    fun s w progEn path base mark enables => ?_⟩
  · have refused : acceptedCueMark s.fu value = none := by
      rw [acceptedCueMark_eq, if_neg]
      rintro ⟨slot, grows⟩
      omega
    refine completes_captured rfl path fun t done => ?_
    rw [writeCueMark_fault refused] at done
    exact done.markFault
  · have refused : acceptedAudioMark s.fu value = none := by
      rw [acceptedAudioMark_eq, if_neg]
      rintro ⟨slot, unfinished, zero, grows⟩
      rcases fails with final | reserved | above | lower
      · rw [final] at unfinished; cases unfinished
      · exact reserved zero
      · omega
      · omega
    refine completes_captured rfl path fun t done => ?_
    rw [writeAudioMark_fault refused] at done
    exact done.markFault
  · have row : exec (.processorWrite w progEn) s = answer (pushWord w false s) := by
      rw [← decideWord_partialMark path base mark enables]; rfl
    have done := captureDone_settle w s
    exact ⟨_, row, ⟨done.sq, done.au⟩, done.plant, done.ground, done.fetch, done.report, done.path⟩

end

section
/-! Proofs: completed bursts. -/

namespace Sys2Proof.Machine

/-! ## The data of a burst (R36, R37, R38, R44) -/

/-- A cue burst crosses the cue ring's trigger (R44). -/
def cueCrosses (x : FetchUnit) : Bool :=
  crosses (cueFree x) (cueFree { x with cueFetch := x.cueFetch + 1 }) x.cueTrigger

/-- An audio read crosses the audio ring's trigger (R44). -/
def audioCrosses (x : FetchUnit) (two : Bool) : Bool :=
  crosses (audioFree x) (audioFree { x with audioFetch := x.audioFetch + (if two then 2 else 1) }) x.audioTrigger

/-- The pending set with SPACE raised at a crossing. -/
def withSpace (crossed : Bool) (x : ReportUnit) : ReportUnit :=
  { x with pending := x.pending ||| (if crossed then 64 else 0) }

theorem raiseSpace_eq (crossed : Bool) (s : State) : raiseSpace crossed s = s.setRu (withSpace crossed s.ru) := by
  cases crossed
  · have kept : withSpace false s.ru = s.ru := by simp [withSpace]
    rw [kept]; rfl
  · rfl

/-- The port freed at the end of a burst. -/
def freePort (s : State) : State := s.setPu { s.pu with port := .free }

/-- A completed cue burst up to the examination of a new head: the port freed, the record at the tail of the cue buffer, the
fetch index past its slot, and SPACE raised at a crossing (R38, R44). -/
def recordTaken (slot : Fin Config.cueSlots) (s : State) : State :=
  ((freePort s).setFu { s.fu with
    cueFetch := s.fu.cueFetch + 1, cueBuffer := s.fu.cueBuffer ++ [readCueSlot s slot] }).setRu
    (withSpace (cueCrosses s.fu) s.ru)

/-- A completed audio read up to its priming test: the port freed, the frames at the tail of the FIFO, the fetch index past
their slots, and SPACE raised at a crossing (R38, R44). -/
def framesTaken (slot : Fin Config.audioSlots) (two : Bool) (s : State) : State :=
  (((freePort s).setFu { s.fu with audioFetch := s.fu.audioFetch + (if two then 2 else 1) }).setAu
    { s.au with fifo := s.au.fifo ++ framesRead s slot two }).setRu (withSpace (audioCrosses s.fu two) s.ru)

theorem completeBurst_void (k : BurstKind) (s : State) : completeBurst { kind := k, void := true } s = freePort s := rfl

/-- A cue burst examines its record exactly when the buffer was empty (R38, R51). -/
theorem completeBurst_cue (slot : Fin Config.cueSlots) (s : State) :
    completeBurst { kind := .cue slot, void := false } s =
      if s.fu.cueBuffer.isEmpty then examineHead (recordTaken slot s) else recordTaken slot s := by
  have taken : raiseSpace (cueCrosses s.fu) ((freePort s).setFu { s.fu with
      cueFetch := s.fu.cueFetch + 1, cueBuffer := s.fu.cueBuffer ++ [readCueSlot s slot] }) = recordTaken slot s :=
    raiseSpace_eq _ _
  rw [← taken]; rfl

/-- An audio read makes the priming test (R4, R38). -/
theorem completeBurst_audio (slot : Fin Config.audioSlots) (two : Bool) (s : State) :
    completeBurst { kind := .audio slot two, void := false } s = primingTest (framesTaken slot two s) := by
  have taken : raiseSpace (audioCrosses s.fu two)
      (((freePort s).setFu { s.fu with audioFetch := s.fu.audioFetch + (if two then 2 else 1) }).setAu
        { s.au with fifo := s.au.fifo ++ framesRead s slot two }) = framesTaken slot two s := raiseSpace_eq _ _
  rw [← taken]; cases two <;> rfl

/-! ## The end of a burst -/

/-- What the end of a burst on the port of `s` leaves, for the state `a` that its completion leaves. -/
structure BurstDone (s a t : State) : Prop where
  sq : t.sq = a.sq
  au : t.au = a.au
  fetch : FetchKept a t
  path : PathKept a t
  report : ReportKept a t
  plant : PlantKept s t
  ground : GroundKept s t

/-- A burst on the port completes, out of reset, with what its completion leaves. -/
theorem completes_burst {b : Burst} {s : State} {P : State → Prop} (out : s.inReset = false)
    (port : s.pu.port = .fetch b) (h : ∀ t, BurstDone s (completeBurst b s) t → P t) :
    Completes .fetchBurstCompletion s P := by
  have ends : endBurst s = completeBurst b s := by simp only [endBurst, port]
  have only := completeBurst_fetchOnly b s
  refine completes_event (f := endBurst) rfl out ?_
  rw [ends]
  generalize completeBurst b s = a at only h ⊢
  exact h (settle a) {
    sq := settle_sq a, au := settle_au a, fetch := settle_fu a, path := settle_pu a, report := settle_ru a
    plant := ⟨only.wu, only.lu, only.gu, only.ls⟩
    ground := groundKept_of only.inReset only.mem }

/-- The path unit at the end of a burst whose completion leaves it beside the port. -/
theorem BurstDone.portFreed {s a t : State} (h : BurstDone s a t) (pu : a.pu = { s.pu with port := .free }) :
    t.pu = { s.pu with port := .free, waitCount := t.pu.waitCount, arbiter := t.pu.arbiter } := by
  have path := h.path
  rw [PathKept, pu] at path
  exact path

/-- SPACE is raised exactly at a crossing (R44). -/
theorem BurstDone.spaced {before after trigger : Nat} {s a t : State} (h : BurstDone s a t)
    (ru : a.ru = withSpace (crosses before after trigger) s.ru) :
    if before < trigger ∧ trigger ≤ after then ReportRaised .space s t else ReportKept s t := by
  split
  case isTrue crossed => exact h.report.raised (by rw [ru, crosses, decide_eq_true crossed]; rfl)
  case isFalse short => exact h.report.of_eq (by rw [ru, crosses, decide_eq_false short]; simp [withSpace])

/-- The examination of a head that is alone in the buffer of a live show, unexamined and free to be (R51). -/
theorem examineHead_alone {q : CueRecord} {s : State} (live : s.sq.state.live = true) (fresh : s.sq.headAccepted = false)
    (free : s.fu.cueBlocked = false) (buffer : s.fu.cueBuffer = [q]) :
    ExaminedTo (examinedHead s.sq s.fu.expectedSequence q) s (examineHead s) := by
  rw [examineHead_live live, buffer]
  exact examineRun_single fresh free buffer

end Sys2Proof.Machine

open Sys2Proof Sys2Proof.Machine

/-- Settles O11: a cue burst behind a head, an audio read, and a void burst. -/
theorem burstDataIsPlaced : Obligations.BurstDataIsPlaced := by
  unfold Obligations.BurstDataIsPlaced
  refine ⟨fun s slot out port behind => ?_, fun s slot two out port => ?_, fun s k out port => ?_⟩
  · refine completes_burst out port fun t done => ?_
    rw [completeBurst_cue, if_neg (by simpa using behind)] at done
    have fu := done.fetch
    rw [FetchKept] at fu
    refine ⟨fu, done.portFreed rfl, ?_, ⟨done.sq, done.au⟩, done.plant, done.ground⟩
    rw [fu]
    exact done.spaced rfl
  · refine completes_burst out port fun t done => ?_
    rw [completeBurst_audio] at done
    have fu := done.fetch
    rw [FetchKept, primingTest_fu] at fu
    have au := done.au.trans (primingTest_au _)
    refine ⟨fu, au, done.portFreed (primingTest_pu _), ?_, fun other => done.sq.trans (primingTest_others other),
      fun priming => ?_, done.plant, done.ground⟩
    · rw [fu]
      exact done.spaced (primingTest_ru _)
    · rw [au, fu]
      exact done.sq.trans (primingTest_sq priming)
  · refine completes_burst out port fun t done => ?_
    rw [completeBurst_void] at done
    exact ⟨done.portFreed rfl, ⟨done.sq, done.au⟩, done.plant, done.ground, done.fetch, done.report⟩

/-- Settles O12: the record put into an empty buffer, in a live show and outside one. -/
theorem newHeadIsExamined : Obligations.NewHeadIsExamined := by
  unfold Obligations.NewHeadIsExamined
  intro s slot out port empty
  dsimp only
  have head : (recordTaken slot s).fu.cueBuffer = [readCueSlot s slot] := congrArg (· ++ _) empty
  have data : completeBurst { kind := .cue slot, void := false } s = examineHead (recordTaken slot s) := by
    rw [completeBurst_cue, empty]; rfl
  refine ⟨fun live fresh free => ?_, fun dead => ?_⟩
  · have examined := examineHead_alone (s := recordTaken slot s) live fresh free head
    have only := examineHead_headOnly (recordTaken slot s)
    refine completes_burst out port fun t done => ?_
    rw [data] at done
    have fu := done.fetch
    have ru := done.report
    rw [FetchKept, examined.fu] at fu
    rw [ReportKept, examined.ru] at ru
    exact ⟨done.sq.trans examined.sq, fu, ru, done.au.trans only.au, done.plant, done.ground, done.portFreed only.pu⟩
  · refine completes_burst out port fun t done => ?_
    rw [data, examineHead_resting (s := recordTaken slot s) dead] at done
    have fu := done.fetch
    rw [FetchKept] at fu
    refine ⟨done.sq, ?_, ?_, done.au, done.plant, done.ground, done.portFreed rfl⟩
    · rw [← head]; exact fu
    · simp only [decide_eq_true_eq]
      exact done.spaced rfl

end

section
/-! Proofs: FIFO, cue buffer and port. `QueuesEase` is what an operation does that puts nothing into the queues and leaves
the port; it composes, and the rules of the queues pass along it. -/

namespace Sys2Proof.Machine

/-! ## The rules, and operations that only ease them -/

/-- The rules of FIFO, cue buffer and port, without that of the fetch request, which the end of every event brings about. -/
structure QueuesFit (s : State) : Prop where
  fifo : s.au.fifo.length ≤ Config.fifoCapacity
  buffer : s.fu.cueBuffer.length ≤ Config.cueBufferCapacity
  burst : burstSound s s.pu.port
  resting : s.sq.state.resting = true → s.au.fifo = [] ∧ s.fu.cueBuffer = [] ∧ s.pu.port.voidOrIdle = true

/-- The queues have not grown, no slot has been unpublished, the port stands, and the show has not come to rest. -/
structure QueuesEase (s t : State) : Prop where
  fifo : t.au.fifo.length ≤ s.au.fifo.length
  buffer : t.fu.cueBuffer.length ≤ s.fu.cueBuffer.length
  cueFetch : t.fu.cueFetch = s.fu.cueFetch
  audioFetch : t.fu.audioFetch = s.fu.audioFetch
  cueSlots : cuePublished s.fu ≤ cuePublished t.fu
  audioSlots : audioPublished s.fu ≤ audioPublished t.fu
  port : t.pu.port = s.pu.port
  rests : t.sq.state.resting = true → s.sq.state.resting = true

theorem QueuesEase.refl (s : State) : QueuesEase s s := ⟨le_rfl, le_rfl, rfl, rfl, le_rfl, le_rfl, rfl, id⟩

theorem QueuesEase.trans {s t u : State} (h : QueuesEase s t) (k : QueuesEase t u) : QueuesEase s u :=
  ⟨k.fifo.trans h.fifo, k.buffer.trans h.buffer, k.cueFetch.trans h.cueFetch, k.audioFetch.trans h.audioFetch,
    h.cueSlots.trans k.cueSlots, h.audioSlots.trans k.audioSlots, k.port.trans h.port, h.rests ∘ k.rests⟩

/-- A burst with published slots and room for its data keeps both (R36, R40). -/
theorem QueuesEase.burstSound {s t : State} (h : QueuesEase s t) :
    ∀ p : Port, Machine.burstSound s p → Machine.burstSound t p
  | .free, _ => trivial
  | .processor _, _ => trivial
  | .fetch { kind := .cue _, void := _ }, sound => sound.imp_right fun ⟨slot, slots, room⟩ =>
    ⟨slot.trans h.cueFetch.symm, slots.trans h.cueSlots, h.buffer.trans_lt room⟩
  | .fetch { kind := .audio _ _, void := _ }, sound => sound.imp_right fun ⟨slot, slots, room⟩ =>
    ⟨slot.trans h.audioFetch.symm, slots.trans h.audioSlots, (Nat.add_le_add_right h.fifo _).trans room⟩

/-- The rules of the queues pass along an operation that only eases them. -/
theorem QueuesEase.fits {s t : State} (h : QueuesEase s t) (fit : QueuesFit s) : QueuesFit t where
  fifo := h.fifo.trans fit.fifo
  buffer := h.buffer.trans fit.buffer
  burst := by rw [h.port]; exact h.burstSound _ fit.burst
  resting rest := by
    obtain ⟨fifo, buffer, void⟩ := fit.resting (h.rests rest)
    have noFrames := h.fifo
    have noRecords := h.buffer
    rw [fifo] at noFrames
    rw [buffer] at noRecords
    exact ⟨List.length_eq_zero_iff.mp (Nat.le_zero.mp noFrames), List.length_eq_zero_iff.mp (Nat.le_zero.mp noRecords),
      by rw [h.port]; exact void⟩

/-- An operation beside FIFO, fetch unit and port. -/
theorem eases_of {s t : State} (fifo : t.au.fifo = s.au.fifo) (fu : t.fu = s.fu) (port : t.pu.port = s.pu.port)
    (rests : t.sq.state.resting = true → s.sq.state.resting = true) : QueuesEase s t :=
  ⟨by rw [fifo], by rw [fu], by rw [fu], by rw [fu], by rw [fu], by rw [fu], port, rests⟩

/-- An operation beside FIFO, fetch unit, port and show state. -/
theorem eases_of_beside {s t : State} (fifo : t.au.fifo = s.au.fifo) (fu : t.fu = s.fu) (port : t.pu.port = s.pu.port)
    (state : t.sq.state = s.sq.state) : QueuesEase s t := eases_of fifo fu port (by rw [state]; exact id)

theorem ShowOnly.eases {s t : State} (h : ShowOnly s t) (rests : t.sq.state.resting = true → s.sq.state.resting = true) :
    QueuesEase s t := eases_of (by rw [h.au]) h.fu (by rw [h.pu]) rests

theorem MonitorsOnly.eases {s t : State} (h : MonitorsOnly s t) : QueuesEase s t :=
  eases_of_beside (by rw [h.au]) h.fu (by rw [h.pu]) (by rw [h.sq])

/-- A live show does not come to rest. -/
theorem rests_of_live {x : ShowState} {P : Prop} (h : x.live = true) : x.resting = true → P := fun rest => by
  rw [ShowState.not_resting_of_live h] at rest; cases rest

theorem setSq_eases (s : State) (x : Sequencer) (state : x.state = s.sq.state := by rfl) : QueuesEase s (s.setSq x) :=
  eases_of_beside rfl rfl rfl state
theorem setSq_live_eases (s : State) {x : Sequencer} (live : x.state.live = true) : QueuesEase s (s.setSq x) :=
  eases_of rfl rfl rfl (rests_of_live live)
theorem setLu_eases (s : State) (x : LightUnit) : QueuesEase s (s.setLu x) := eases_of_beside rfl rfl rfl rfl
theorem setWu_eases (s : State) (x : WaterUnit) : QueuesEase s (s.setWu x) := eases_of_beside rfl rfl rfl rfl
theorem setGu_eases (s : State) (x : GuardUnit) : QueuesEase s (s.setGu x) := eases_of_beside rfl rfl rfl rfl
theorem setLs_eases (s : State) (x : LimitStore) : QueuesEase s (s.setLs x) := eases_of_beside rfl rfl rfl rfl
theorem setRu_eases (s : State) (x : ReportUnit) : QueuesEase s (s.setRu x) := eases_of_beside rfl rfl rfl rfl
theorem raise_eases (c : Cause) (s : State) : QueuesEase s (raise c s) := setRu_eases s _

/-! ## Entry to RUNNING, holds, wind-down and faults -/

theorem enterRunning_eases (s : State) : QueuesEase s (enterRunning s) := by
  have live := enterRunning_live s
  rw [enterRunning_frame] at live ⊢
  exact setSq_live_eases s live

theorem primingTest_eases (s : State) : QueuesEase s (primingTest s) := by
  unfold primingTest
  split
  case h_1 =>
    split
    · split
      · exact enterRunning_eases s
      · exact setSq_live_eases s rfl
    · exact QueuesEase.refl s
  all_goals exact QueuesEase.refl s

theorem takeSync_eases (s : State) : QueuesEase s (takeSync s) := by
  unfold takeSync; split
  · exact enterRunning_eases s
  · exact QueuesEase.refl s

theorem holdForHost_eases (s : State) : QueuesEase s (holdForHost s) := setSq_live_eases s rfl

theorem takeHold_eases (s : State) : QueuesEase s (takeHold s) := by
  unfold takeHold; split
  · exact holdForHost_eases s
  · exact setSq_eases s _

theorem takeStep_eases (s : State) : QueuesEase s (takeStep s) := (setSq_eases s _).trans (enterRunning_eases _)

theorem takeProceed_eases (s : State) : QueuesEase s (takeProceed s) := by
  unfold takeProceed; dsimp only; split
  · exact setSq_eases s _
  · exact (setSq_eases s _).trans (enterRunning_eases _)

theorem holdEntryMatched_eases (s : State) : QueuesEase s (holdEntryMatched s) := by
  unfold holdEntryMatched
  split
  case h_1 | h_2 | h_3 => exact setSq_live_eases s rfl
  all_goals exact QueuesEase.refl s

theorem noHoldEntryMatched_eases (s : State) : QueuesEase s (noHoldEntryMatched s) := by
  unfold noHoldEntryMatched
  split
  case h_1 =>
    split
    · exact setSq_eases s _
    · exact setSq_live_eases s rfl
  all_goals exact QueuesEase.refl s

theorem windDown_eases (kind : WinddownKind) (s : State) : QueuesEase s (windDown kind s) :=
  (windDown_showOnly kind s).eases fun rest => by rw [windDown_sq] at rest; cases rest

/-- A fault brings no show to rest that was not: from IDLE it goes to TRIPPED, and from a live show to wind-down (R22). -/
theorem takeFault_eases (cause : FaultCause) (s : State) : QueuesEase s (takeFault cause s) := by
  refine (takeFault_showOnly cause s).eases ?_
  by_cases live : s.sq.state.live = true
  · intro rest
    rw [takeFault_live_sq cause live] at rest
    cases rest
  · unfold takeFault
    split
    case h_1 idle => exact fun _ => by rw [idle]; rfl
    case h_7 => split <;> exact id
    case h_8 => exact id
    all_goals simp_all [ShowState.live]

/-! ## Evaluations -/

theorem handTransition_eases (e : Fin 8) (s : State) : QueuesEase s (handTransition e s) := by
  have raised := raise_eases .interlock s
  unfold handTransition
  dsimp only
  split
  · exact raised.trans (holdEntryMatched_eases _)
  · exact raised.trans (takeFault_eases _ _)
  all_goals exact raised

theorem handTransitions_eases (entries : Byte) (s : State) : QueuesEase s (handTransitions entries s) := by
  unfold handTransitions
  generalize List.finRange 8 = es
  induction es generalizing s with
  | nil => exact QueuesEase.refl s
  | cons e es ih =>
    rw [List.foldl_cons]
    refine QueuesEase.trans ?_ (ih _)
    split
    · exact handTransition_eases e s
    · exact QueuesEase.refl s

theorem handHoldEnd_eases (before : Bool) (s : State) : QueuesEase s (handHoldEnd before s) := by
  unfold handHoldEnd; split
  · exact noHoldEntryMatched_eases s
  · exact QueuesEase.refl s

theorem takeSets_eases (matched latched moved : Byte) (s : State) : QueuesEase s (takeSets matched latched moved s) :=
  ((setGu_eases s _).trans (handTransitions_eases moved _)).trans (handHoldEnd_eases _ _)

theorem evaluateLevels_eases (s : State) : QueuesEase s (evaluateLevels s) := takeSets_eases _ _ _ s

theorem timerExpires_eases (input : Fin 16) (s : State) : QueuesEase s (timerExpires input s) := by
  unfold timerExpires expireDebounce
  dsimp only
  repeat' split
  · exact setGu_eases s _
  · exact (setGu_eases s _).trans (takeSets_eases _ _ _ _)
  · exact QueuesEase.refl s

theorem changeLevel_eases (input : Fin 16) (high : Bool) (s : State) : QueuesEase s (changeLevel input high s) := by
  unfold changeLevel; split
  · exact QueuesEase.refl s
  · exact setGu_eases s _

theorem gateExpires_eases (s : State) : QueuesEase s (gateExpires s) := by
  unfold gateExpires expireGate
  dsimp only
  repeat' split
  · exact setGu_eases s _
  · exact (setGu_eases s _).trans (raise_eases .wind _)
  · exact QueuesEase.refl s

theorem leaveTripped_eases (s : State) : QueuesEase s (leaveTripped s) := by
  unfold leaveTripped; split
  case isTrue h =>
    simp only [inState, Bool.and_eq_true, decide_eq_true_eq] at h
    exact eases_of rfl rfl rfl fun _ => by rw [h.1]; rfl
  case isFalse => exact QueuesEase.refl s

theorem finishOperation_eases (name : OpName) (result : CompletionResult) (s : State) :
    QueuesEase s (finishOperation name result s) :=
  ((setLs_eases s _).trans (raise_eases .limit _)).trans (evaluateLevels_eases _)

theorem completeProgramRow_eases (holds : Bool) (s : State) : QueuesEase s (completeProgramRow holds s) := by
  unfold completeProgramRow
  repeat' split
  · exact (setLs_eases s _).trans (finishOperation_eases _ _ _)
  all_goals exact QueuesEase.refl s

theorem completeSetLock_eases (s : State) : QueuesEase s (completeSetLock s) := by
  unfold completeSetLock; split
  · exact (setLs_eases s _).trans (finishOperation_eases _ _ _)
  · exact QueuesEase.refl s

theorem completeEraseAll_eases (s : State) : QueuesEase s (completeEraseAll s) := by
  unfold completeEraseAll; split
  · exact (setLs_eases s _).trans (finishOperation_eases _ _ _)
  · exact QueuesEase.refl s

/-! ## Examination of the head -/

theorem HeadOnly.eases {s t : State} (h : HeadOnly s t) (buffer : t.fu.cueBuffer.length ≤ s.fu.cueBuffer.length)
    (fu : t.fu = { s.fu with
      cueBuffer := t.fu.cueBuffer, cueBlocked := t.fu.cueBlocked, expectedSequence := t.fu.expectedSequence })
    (state : t.sq.state = s.sq.state) : QueuesEase s t where
  fifo := by rw [h.au]
  buffer := buffer
  cueFetch := by rw [fu]
  audioFetch := by rw [fu]
  cueSlots := by rw [fu]; exact le_rfl
  audioSlots := by rw [fu]; exact le_rfl
  port := by rw [h.pu]
  rests := by rw [state]; exact id

/-- The fetch unit after the examination of a record: it is consumed, or stays at the head (R50). -/
theorem examineRecord_fu (r : CueRecord) (rest : List CueRecord) (s : State) :
    (examineRecord r rest s).state.fu = { s.fu with
      cueBuffer := (examineRecord r rest s).state.fu.cueBuffer
      cueBlocked := (examineRecord r rest s).state.fu.cueBlocked
      expectedSequence := (examineRecord r rest s).state.fu.expectedSequence } ∧
    ((examineRecord r rest s).state.fu.cueBuffer = s.fu.cueBuffer ∨
      (examineRecord r rest s).state.fu.cueBuffer = rest) := by
  have settled : ∀ t : State, (settleHead r rest t).state.fu = { t.fu with
      cueBuffer := (settleHead r rest t).state.fu.cueBuffer } ∧
      ((settleHead r rest t).state.fu.cueBuffer = t.fu.cueBuffer ∨ (settleHead r rest t).state.fu.cueBuffer = rest) := by
    intro t; unfold settleHead
    repeat' split
    · exact ⟨rfl, .inr rfl⟩
    · exact ⟨rfl, .inr rfl⟩
    · exact ⟨rfl, .inl rfl⟩
  unfold examineRecord
  repeat' split
  · obtain ⟨fu, buffer⟩ := settled s
    exact ⟨by rw [fu], buffer⟩
  · exact ⟨rfl, .inl rfl⟩
  · obtain ⟨fu, buffer⟩ := settled (sequenceMatch r s)
    exact ⟨by rw [fu]; rfl, buffer⟩
  · exact ⟨rfl, .inl rfl⟩

theorem examineRecord_eases {r : CueRecord} {rest : List CueRecord} {s : State} (buffer : s.fu.cueBuffer = r :: rest) :
    QueuesEase s (examineRecord r rest s).state := by
  obtain ⟨fu, same | consumed⟩ := examineRecord_fu r rest s
  · exact (examineRecord_headOnly r rest s).eases (by rw [same]) fu (examineRecord_state r rest s).1
  · refine (examineRecord_headOnly r rest s).eases ?_ fu (examineRecord_state r rest s).1
    rw [consumed, buffer]
    exact Nat.le_succ _

theorem countMeeting_eases (s : State) : QueuesEase s (countMeeting s) := eases_of_beside rfl rfl rfl rfl

theorem examineRun_eases {rs : List CueRecord} {s : State} (buffer : s.fu.cueBuffer = rs) :
    QueuesEase s (examineRun rs s) := by
  induction rs generalizing s with
  | nil => exact QueuesEase.refl s
  | cons r rest ih =>
    have one := examineRecord_eases buffer
    unfold examineRun
    dsimp only
    split
    · exact one
    · next left =>
      obtain ⟨behind, -⟩ := examineRecord_left (r := r) (rest := rest) (s := s) (by simpa using left)
      repeat' split
      · exact (one.trans (countMeeting_eases _)).trans (setSq_eases _ _)
      · exact (one.trans (countMeeting_eases _)).trans (ih behind)
      · exact one.trans (ih behind)

theorem examineHead_eases (s : State) : QueuesEase s (examineHead s) := by
  unfold examineHead; split
  · exact examineRun_eases rfl
  · exact QueuesEase.refl s

theorem retryHead_eases (s : State) : QueuesEase s (retryHead s) := by
  unfold retryHead; split
  · exact examineHead_eases s
  · exact QueuesEase.refl s

theorem resumeRun_eases (s : State) : QueuesEase s (resumeRun s) := by
  unfold resumeRun; split
  · exact (setSq_eases s _).trans (examineHead_eases _)
  · exact QueuesEase.refl s

/-! ## The frame period -/

theorem deliver_eases (a : Action) (s : State) : QueuesEase s (deliver a s) := by
  by_cases h : a = .endShow
  · subst h; exact windDown_eases .normal s
  · exact (deliver_showOnly a s).eases (by rw [deliver_sq h s]; exact id)

theorem releaseDue_eases (es : List ReleaseEntry) (s : State) : QueuesEase s (releaseDue es s).state := by
  induction es generalizing s with
  | nil => exact QueuesEase.refl s
  | cons e rest ih =>
    have delivered : QueuesEase s (deliver e.action (takeEntry e rest s)) :=
      (setSq_eases s _).trans (deliver_eases _ _)
    unfold releaseDue
    dsimp only
    repeat' split
    · exact delivered
    · exact delivered.trans (ih _)
    · exact QueuesEase.refl s

theorem examineAfter_eases (r : Released) : QueuesEase r.state (examineAfter r) := by
  unfold examineAfter
  repeat' split
  · exact resumeRun_eases _
  · exact retryHead_eases _
  · exact QueuesEase.refl _

theorem afterReleases_eases (r : Released) : QueuesEase r.state (afterReleases r) := by
  unfold afterReleases
  repeat' split
  · exact QueuesEase.refl _
  · exact ((examineAfter_eases r).trans (holdForHost_eases _)).trans (resumeRun_eases _)
  · exact examineAfter_eases r

theorem advance_eases (s : State) : QueuesEase s (advance s) := by
  unfold advance; split
  · exact takeFault_eases _ s
  · exact ((setSq_eases s _).trans (releaseDue_eases _ _)).trans (afterReleases_eases _)

theorem starveLimitTest_eases (s : State) : QueuesEase s (starveLimitTest s) := by
  unfold starveLimitTest; split
  · exact takeFault_eases _ s
  · exact QueuesEase.refl s

theorem takeReport_eases (o : PeriodOutcome) (s : State) : QueuesEase s (takeReport o s) := by
  have resumed : QueuesEase s (setShow .running s) := setSq_live_eases s rfl
  unfold takeReport
  split
  · exact advance_eases s
  · exact advance_eases s
  · exact resumed.trans (advance_eases _)
  · exact resumed.trans (advance_eases _)
  · exact eases_of rfl rfl rfl (rests_of_live rfl)
  · exact (setSq_eases s _).trans (starveLimitTest_eases _)
  · exact QueuesEase.refl s

/-- A frame taken shortens the FIFO (R75). -/
theorem takeFrame_eases (s : State) : QueuesEase s (takeFrame s) := by
  unfold takeFrame
  split
  case h_1 =>
    have shorter : s.au.fifo.tail.length ≤ s.au.fifo.length := by rw [List.length_tail]; exact Nat.sub_le _ _
    exact ⟨shorter, le_rfl, rfl, rfl, le_rfl, le_rfl, rfl, id⟩
  all_goals exact QueuesEase.refl s

theorem shiftOut_eases (samples : Vector Half 4) (s : State) : QueuesEase s (shiftOut samples s) :=
  eases_of_beside rfl rfl rfl rfl

theorem playPeriod_eases (s : State) : QueuesEase s (playPeriod s) := by
  by_cases clock : s.au.clock.isSome = true
  · rw [playPeriod_runs clock]
    have report : QueuesEase s (reported s) := (takeFrame_eases s).trans (takeReport_eases _ _)
    exact (report.trans (shiftOut_eases _ _)).trans (feedMonitors_monitorsOnly _ _).eases
  · rw [playPeriod_stopped (by simpa using clock)]; exact QueuesEase.refl s

theorem resumePeriod_eases (s : State) : QueuesEase s (resumePeriod s) := by
  unfold resumePeriod; split
  · exact playPeriod_eases s
  · exact QueuesEase.refl s

/-! ## Written words -/

theorem takeResync_eases (s : State) : QueuesEase s (takeResync s) := by
  have free : QueuesEase s (s.setFu { s.fu with
      expectedSequence := BitVec.ofNat 8 s.ru.arg0.toNat, cueBlocked := false }) :=
    ⟨le_rfl, le_rfl, rfl, rfl, le_rfl, le_rfl, rfl, id⟩
  unfold takeResync; dsimp only; split
  · exact free
  · exact free.trans (examineHead_eases _)

theorem takeTriggers_eases (s : State) : QueuesEase s (takeTriggers s) :=
  ⟨le_rfl, le_rfl, rfl, rfl, le_rfl, le_rfl, rfl, id⟩

theorem clearCounters_eases (s : State) : QueuesEase s (clearCounters s) := eases_of_beside rfl rfl rfl rfl

theorem markFault_eases (s : State) : QueuesEase s (markFault s) := ⟨le_rfl, le_rfl, rfl, rfl, le_rfl, le_rfl, rfl, id⟩

/-- An accepted CUE_MARK unpublishes no slot (R29). -/
theorem writeCueMark_eases (value : Word) (s : State) : QueuesEase s (writeCueMark value s) := by
  by_cases accepted : value.toNat < 4096 ∧
      cuePublished s.fu ≤ (Fin.ofNat Config.cueSlots value.toNat - s.fu.cueFetch).val
  · rw [writeCueMark_accepted ((acceptedCueMark_eq _ _).trans (if_pos accepted))]
    exact ⟨le_rfl, le_rfl, rfl, rfl, accepted.2, le_rfl, rfl, id⟩
  · rw [writeCueMark_fault ((acceptedCueMark_eq _ _).trans (if_neg accepted))]
    exact markFault_eases s

/-- An accepted AUDIO_MARK unpublishes no slot (R30). -/
theorem writeAudioMark_eases (value : Word) (s : State) : QueuesEase s (writeAudioMark value s) := by
  by_cases accepted : (value.extractLsb' 0 17).toNat < 114688 ∧ s.fu.final = false ∧ value.extractLsb' 17 14 = 0 ∧
      audioPublished s.fu ≤
        (Fin.ofNat Config.audioSlots (value.extractLsb' 0 17).toNat - s.fu.audioFetch).val
  · obtain ⟨-, -, -, grows⟩ := id accepted
    rw [writeAudioMark_accepted ((acceptedAudioMark_eq _ _).trans (if_pos accepted))]
    refine QueuesEase.trans ?_ (primingTest_eases _)
    exact ⟨le_rfl, le_rfl, rfl, rfl, le_rfl, grows, rfl, id⟩
  · rw [writeAudioMark_fault ((acceptedAudioMark_eq _ _).trans (if_neg accepted))]
    exact markFault_eases s

theorem takeMute_eases (new : BitVec 4) (s : State) : QueuesEase s (takeMute new s) := by
  have unmoved := takeMute_unmoved new s
  have only := takeMute_musicOnly new s
  exact eases_of_beside unmoved.fifo only.fu (by rw [only.pu]) (by rw [only.sq])

theorem startShow_eases (s : State) : QueuesEase s (startShow s) := by
  unfold startShow
  dsimp only
  refine QueuesEase.trans ?_ (primingTest_eases _)
  exact eases_of rfl rfl rfl (rests_of_live rfl)

theorem takeArg_eases (i : Fin 3) (value : Word) (s : State) : QueuesEase s (takeArg i value s) := by
  unfold takeArg; split <;> exact setRu_eases s _

theorem captureStaging_eases (i : Fin 16) (value : Word) (s : State) : QueuesEase s (captureStaging i value s) := by
  unfold captureStaging; split
  · exact QueuesEase.refl s
  · exact setLs_eases s _

theorem pushWord_eases (w : BusWrite) (refused : Bool) (s : State) : QueuesEase s (pushWord w refused s) := by
  have port := pushWord_port w refused s
  obtain ⟨sq, au, -, -, -, -, fu, -⟩ := pushWord_beside w refused s
  exact eases_of_beside (by rw [au]) fu port (by rw [sq])

theorem refuseWord_eases (w : BusWrite) (s : State) : QueuesEase s (refuseWord w s) := by
  unfold refuseWord
  dsimp only
  refine QueuesEase.trans ?_ (pushWord_eases w true _)
  exact eases_of_beside rfl rfl rfl rfl

theorem presentRead_eases (r : BusRead) (s : State) : QueuesEase s (presentRead r s) := by
  have port : (presentRead r s).pu.port = s.pu.port := by
    unfold presentRead; split
    · rw [answerRead_frame]; rfl
    · rfl
  have frame := presentRead_frame r s
  exact eases_of_beside (by rw [frame]; rfl) (by rw [frame]; rfl) port (by rw [frame]; rfl)

theorem settle_eases (s : State) : QueuesEase s (settle s) := ⟨le_rfl, le_rfl, rfl, rfl, le_rfl, le_rfl, rfl, id⟩

end Sys2Proof.Machine
end

section
/-! Proofs: what is put into FIFO, cue buffer and port, what empties them, and the rules of the queues at every step. -/

namespace Sys2Proof.Machine

/-! ## Grants (R35, R36, R40, R173) -/

/-- A burst that is void or none needs nothing of the rings. -/
theorem burstSound_void (s : State) : ∀ {p : Port}, p.voidOrIdle = true → burstSound s p
  | .free, _ => trivial
  | .processor _, _ => trivial
  | .fetch _, void => .inl void

/-- A port without a burst, or with a void one, keeps the rules of the queues. -/
theorem QueuesFit.idle {s t : State} (fit : QueuesFit s) (sq : t.sq = s.sq) (au : t.au = s.au) (fu : t.fu = s.fu)
    (port : t.pu.port.voidOrIdle = true) : QueuesFit t where
  fifo := by rw [au]; exact fit.fifo
  buffer := by rw [fu]; exact fit.buffer
  burst := burstSound_void t port
  resting rest := by
    rw [sq] at rest
    obtain ⟨fifo, buffer, -⟩ := fit.resting rest
    exact ⟨by rw [au]; exact fifo, by rw [fu]; exact buffer, port⟩

/-- A read of two frames has two published (R36). -/
theorem readFrames_published {x : FetchUnit} (some : 1 ≤ audioPublished x) :
    (if readsTwo x then 2 else 1) ≤ audioPublished x := by
  split
  case isTrue two =>
    rw [readsTwo, Bool.and_eq_true] at two
    exact of_decide_eq_true two.2
  case isFalse => exact some

/-- A burst chosen at a grant reads published slots and has room for its data (R35, R36, R40, R74). -/
theorem chooseBurst_sound {k : BurstKind} {s : State} (h : chooseBurst s = some k) :
    burstSound s (.fetch { kind := k, void := false }) := by
  have audio : 1 ≤ audioPublished s.fu → s.au.fifo.length + readFrames s.fu ≤ Config.fifoCapacity →
      burstSound s (.fetch { kind := audioRead s, void := false }) := fun some room =>
    .inr ⟨rfl, readFrames_published some, room⟩
  unfold chooseBurst at h
  split at h
  case isTrue urgent =>
    cases h
    simp only [urgentRead, Bool.and_eq_true, decide_eq_true_eq] at urgent
    obtain ⟨low, some⟩ := urgent
    have few : readFrames s.fu ≤ 2 := by unfold readFrames; split <;> decide
    refine audio some ?_
    simp only [Config.lowLevel, Config.fifoCapacity] at low ⊢
    omega
  case isFalse =>
    split at h
    case isTrue possible =>
      cases h
      simp only [cuePossible, Bool.and_eq_true, decide_eq_true_eq] at possible
      obtain ⟨⟨room, some⟩, -⟩ := possible
      exact .inr ⟨rfl, some, room⟩
    case isFalse =>
      split at h
      case isTrue roomy =>
        cases h
        simp only [roomyRead, Bool.and_eq_true, decide_eq_true_eq] at roomy
        exact audio roomy.1 roomy.2
      case isFalse => cases h

/-- A grant to the fetch unit of a live show puts a burst on the port that has room for its data. -/
theorem grantFetch_fits {s : State} (live : s.sq.state.live = true) (fit : QueuesFit s) : QueuesFit (grantFetch s) := by
  unfold grantFetch
  split
  case h_1 k chosen => exact ⟨fit.fifo, fit.buffer, chooseBurst_sound chosen, rests_of_live live⟩
  case h_2 => exact fit

theorem grantWaiting_fits (n : Fin 9) {s : State} (fit : QueuesFit s) : QueuesFit (grantWaiting n s) := by
  unfold grantWaiting
  split
  · exact fit
  · exact fit.idle rfl rfl rfl rfl

/-- A claim of the fetch unit that stands is the request of a live show (R34). -/
theorem grantClaim_fits (first : Bool) {claim : Claim} {s : State} (stands : claimStands s claim = true)
    (request : s.fu.fetchRequest = true → s.sq.state.live = true) (fit : QueuesFit s) :
    QueuesFit (grantClaim first claim s) := by
  cases claim with
  | processor => exact grantWaiting_fits _ fit
  | fetch => exact grantFetch_fits (request stands) fit
  | both | together =>
    rw [claimStands, Bool.and_eq_true] at stands
    simp only [grantClaim]
    split
    · exact grantFetch_fits (request stands.2) fit
    · exact grantWaiting_fits _ fit

theorem grantPort_fits (first : Bool) {s : State} (due : dueStands s = true)
    (request : s.fu.fetchRequest = true → s.sq.state.live = true) (fit : QueuesFit s) :
    QueuesFit (grantPort first s) := by
  unfold grantPort
  split
  case h_1 claim _ arbiter => exact grantClaim_fits first (by rw [dueStands, arbiter] at due; exact due) request fit
  all_goals exact fit

/-- A grant that the arbiter finds due is due to those waiting (R173). -/
theorem dueStands_settleArbiter (s : State) : dueStands (settleArbiter s) = true := by
  unfold dueStands
  split
  case h_1 claim found =>
    have stands := arbitrate_due (s := s) found
    cases claim <;> exact stands
  all_goals rfl

theorem settleArbiter_eases (s : State) : QueuesEase s (settleArbiter s) := eases_of_beside rfl rfl rfl rfl

/-! ## Completed bursts (R38, R39) -/

/-- With a burst on the port that is not void a show is not at rest (R39). -/
theorem QueuesFit.awake {b : Burst} {s : State} (fit : QueuesFit s) (port : s.pu.port = .fetch b) (sound : b.void = false)
    {P : Prop} (rest : s.sq.state.resting = true) : P := by
  obtain ⟨-, -, void⟩ := fit.resting rest
  rw [port, Port.voidOrIdle, sound] at void
  cases void

theorem freePort_fits {s : State} (fit : QueuesFit s) : QueuesFit (freePort s) := fit.idle rfl rfl rfl rfl

/-- The record of a cue burst has room in the buffer (R40). -/
theorem recordTaken_fits {slot : Fin Config.cueSlots} {s : State}
    (port : s.pu.port = .fetch { kind := .cue slot, void := false }) (fit : QueuesFit s) :
    QueuesFit (recordTaken slot s) := by
  have sound := fit.burst
  rw [port] at sound
  obtain void | ⟨-, -, room⟩ := sound
  · cases void
  · have buffer : (recordTaken slot s).fu.cueBuffer.length = s.fu.cueBuffer.length + 1 := List.length_append
    exact ⟨fit.fifo, by rw [buffer]; exact room, trivial, fit.awake port rfl⟩

/-- The frames of an audio read have room in the FIFO (R74). -/
theorem framesTaken_fits {slot : Fin Config.audioSlots} {two : Bool} {s : State}
    (port : s.pu.port = .fetch { kind := .audio slot two, void := false }) (fit : QueuesFit s) :
    QueuesFit (framesTaken slot two s) := by
  have sound := fit.burst
  rw [port] at sound
  obtain void | ⟨-, -, room⟩ := sound
  · cases void
  · have fifo : (framesTaken slot two s).au.fifo.length = s.au.fifo.length + (if two then 2 else 1) := by
      cases two <;> exact List.length_append
    exact ⟨by rw [fifo]; exact room, fit.buffer, trivial, fit.awake port rfl⟩

theorem endBurst_fits {s : State} (fit : QueuesFit s) : QueuesFit (endBurst s) := by
  unfold endBurst
  split
  case h_1 b port =>
    match b, port with
    | { kind := k, void := true }, _ => exact freePort_fits fit
    | { kind := .cue slot, void := false }, port =>
      rw [completeBurst_cue]
      split
      · exact (examineHead_eases _).fits (recordTaken_fits port fit)
      · exact recordTaken_fits port fit
    | { kind := .audio slot two, void := false }, port =>
      rw [completeBurst_audio]
      exact (primingTest_eases _).fits (framesTaken_fits port fit)
  all_goals exact fit

theorem endTransaction_fits {s : State} (fit : QueuesFit s) : QueuesFit (endTransaction s) := by
  unfold endTransaction
  split
  · exact fit.idle rfl rfl rfl rfl
  all_goals exact fit

/-! ## What empties the queues -/

theorem voidOrIdle_voided (p : Port) : p.voided.voidOrIdle = true := by cases p <;> rfl

/-- RING_RESET empties the buffer and makes a burst in flight void (R39, R46). -/
theorem resetRings_fits {s : State} (fit : QueuesFit s) : QueuesFit (resetRings s) where
  fifo := fit.fifo
  buffer := Nat.zero_le _
  burst := burstSound_void _ (voidOrIdle_voided _)
  resting rest := by
    obtain ⟨fifo, -, -⟩ := fit.resting rest
    exact ⟨fifo, rfl, voidOrIdle_voided _⟩

/-- Completion of wind-down empties both queues and makes a burst in flight void (R25, R39). -/
theorem completeWinddown_fits (s : State) : QueuesFit (completeWinddown s) where
  fifo := Nat.zero_le _
  buffer := Nat.zero_le _
  burst := burstSound_void _ (voidOrIdle_voided _)
  resting _ := ⟨rfl, rfl, voidOrIdle_voided _⟩

theorem winddownTest_fits {s : State} (fit : QueuesFit s) : QueuesFit (winddownTest s) := by
  unfold winddownTest; split
  · exact completeWinddown_fits s
  · exact fit

theorem takeFieldPeriod_fits {s : State} (fit : QueuesFit s) : QueuesFit (takeFieldPeriod s) :=
  winddownTest_fits ((setWu_eases s (waterPeriod s).wu).fits fit)

theorem colourStep_eases (s : State) : QueuesEase s (colourStep s) := eases_of_beside rfl rfl rfl rfl

theorem takeColourPeriod_fits {s : State} (fit : QueuesFit s) : QueuesFit (takeColourPeriod s) :=
  winddownTest_fits ((colourStep_eases s).fits fit)

theorem deferredClosePeriod_fits (v : Fin 192) {s : State} (fit : QueuesFit s) : QueuesFit (deferredClosePeriod v s) := by
  unfold deferredClosePeriod; split
  · exact takeFieldPeriod_fits fit
  · exact fit

theorem winddownPeriod_fits {s : State} (fit : QueuesFit s) : QueuesFit (winddownPeriod s) := by
  unfold winddownPeriod
  repeat' split
  · exact takeFieldPeriod_fits fit
  · exact takeColourPeriod_fits fit
  · exact fit

/-- The assertion of RESET_N ends a fetch read at once (R175). -/
theorem voidOrIdle_atAssert (p : Port) : p.atAssert.voidOrIdle = true := by cases p <;> rfl

theorem assertReset_fits (s : State) : QueuesFit (assertReset s) where
  fifo := Nat.zero_le _
  buffer := Nat.zero_le _
  burst := burstSound_void _ (voidOrIdle_atAssert _)
  resting _ := ⟨rfl, rfl, voidOrIdle_atAssert _⟩

theorem startGate_eases (s : State) : QueuesEase s (startGate s) := setGu_eases s _

theorem endReset_fits (straps : BitVec 6) (senses : Half) {s : State} (fit : QueuesFit s) :
    QueuesFit (endReset straps senses s) := by
  have sampled : QueuesEase s (recomputeTable (sampleSenses senses (sampleStraps straps { s with inReset := false }))) :=
    eases_of_beside rfl rfl rfl rfl
  have started := (sampled.trans (evaluateLevels_eases _)).trans (startGate_eases _)
  unfold endReset; split
  · exact takeColourPeriod_fits (takeFieldPeriod_fits (started.fits fit))
  · exact fit

/-! ## Written words -/

/-- The effect of a show command keeps the rules of the queues. -/
theorem ShowCommand.act_fits (c : ShowCommand) {s : State} (fit : QueuesFit s) : QueuesFit (c.act s) := by
  cases c
  case start => exact (startShow_eases s).fits fit
  case stop => exact (windDown_eases .normal s).fits fit
  case hold => exact (takeHold_eases s).fits fit
  case step => exact (takeStep_eases s).fits fit
  case proceed => exact (takeProceed_eases s).fits fit
  case ringReset => exact resetRings_fits fit
  case ambient => exact (setLu_eases s _).fits fit
  case cueResync => exact (takeResync_eases s).fits fit
  case releaseInterlocks => exact ((takeSets_eases _ _ _ s).trans (leaveTripped_eases _)).fits fit
  case mute => exact (takeMute_eases _ s).fits fit
  case monitor => exact (setMonitor_monitorsOnly _ _ s).eases.fits fit
  case spaceTriggers => exact (takeTriggers_eases s).fits fit
  case clearCounts => exact (clearCounters_eases s).fits fit

theorem takeCommand_fits (code : Word) (c : ShowCommand) {s : State} (fit : QueuesFit s) :
    QueuesFit (takeCommand code (c.outcome s) c.act s) := by
  unfold takeCommand; split
  · exact (setRu_eases _ _).fits (c.act_fits fit)
  · exact (setRu_eases _ _).fits fit

theorem takeShowCommand_fits (code : Word) {s : State} (fit : QueuesFit s) : QueuesFit (takeShowCommand code s) := by
  unfold takeShowCommand; split
  · exact takeCommand_fits code _ fit
  · exact (setRu_eases _ _).fits fit

theorem captureFull_fits (offset : Nat) (value : Word) (progEn : Bool) {s : State} (fit : QueuesFit s) :
    QueuesFit (captureFull offset value progEn s) := by
  unfold captureFull
  repeat' split
  · exact takeShowCommand_fits value fit
  · exact (takeArg_eases 0 value s).fits fit
  · exact (takeArg_eases 1 value s).fits fit
  · exact (takeArg_eases 2 value s).fits fit
  · exact (writeCueMark_eases value s).fits fit
  · exact (writeAudioMark_eases value s).fits fit
  · exact (setLs_eases s _).fits fit
  · exact (setRu_eases s _).fits fit
  · exact (setRu_eases s _).fits fit
  · exact (captureStaging_eases _ value s).fits fit
  · exact fit

theorem captureWord_fits (w : BusWrite) (progEn : Bool) {s : State} (fit : QueuesFit s) :
    QueuesFit (captureWord w progEn s) := by
  unfold captureWord
  repeat' split
  · exact captureFull_fits _ _ _ fit
  · exact (setRu_eases s _).fits fit
  · exact fit
  · exact fit

theorem decideWord_fits (w : BusWrite) (progEn : Bool) {s : State} (fit : QueuesFit s) :
    QueuesFit (decideWord w progEn s) := by
  unfold decideWord
  repeat' split
  · exact (pushWord_eases w false s).fits fit
  · exact (refuseWord_eases w s).fits fit
  · exact (pushWord_eases w false _).fits (captureWord_fits w progEn fit)

/-! ## Every command -/

/-- What a command answers is the settled state of an operation that keeps the rules of the queues. -/
def AnswersFit (s : State) (o : Host.Outcome State Fault Refusal) : Prop :=
  ∃ x, o = answer x ∧ (QueuesFit s → QueuesFit x)

theorem answersFit {s x : State} (h : QueuesFit s → QueuesFit x) : AnswersFit s (answer x) := ⟨x, rfl, h⟩

theorem answersFit_outOfReset {f : State → State} {s : State} (h : QueuesFit s → QueuesFit (f s)) :
    AnswersFit s (answer (outOfReset f s)) := by
  unfold outOfReset; split
  · exact answersFit id
  · exact answersFit h

/-- A captured word keeps the rules of the queues as its capture does. -/
theorem answersFit_captured {offset : Nat} {value : Word} {burst : Bool} {capture : State → State} {s : State}
    (h : QueuesFit s → QueuesFit (capture s)) : AnswersFit s (answer (captured offset value burst capture s)) := by
  unfold captured; dsimp only; split
  · exact answersFit (pushWord_eases _ _ _).fits
  · exact answersFit fun fit => (pushWord_eases _ _ _).fits (h fit)

theorem execArbiterGrant_answersFit (input : GrantInput) {s : State} (due : dueStands s = true)
    (request : s.fu.fetchRequest = true → s.sq.state.live = true) : AnswersFit s (execArbiterGrant input s) := by
  unfold execArbiterGrant; split
  case h_1 r _ =>
    have frame := presentRead_frame r s
    have standing : (settleArbiter (presentRead r s)).fu.fetchRequest = true →
        (settleArbiter (presentRead r s)).sq.state.live = true := by rw [frame]; exact request
    have arrived := (presentRead_eases r s).trans (settleArbiter_eases _)
    exact answersFit fun fit => grantPort_fits _ (dueStands_settleArbiter _) standing (arrived.fits fit)
  case h_2 => exact answersFit (grantPort_fits _ due request)

/-- Every command keeps the rules of the queues, where a grant that is due is due to those waiting and a fetch request is
that of a live show. -/
theorem exec_answersFit (c : Instr) {s : State} (due : dueStands s = true)
    (request : s.fu.fetchRequest = true → s.sq.state.live = true) : AnswersFit s (exec c s) := by
  cases c
  case start => exact answersFit_captured (takeCommand_fits _ .start)
  case stop => exact answersFit_captured (takeCommand_fits _ .stop)
  case hold => exact answersFit_captured (takeCommand_fits _ .hold)
  case step => exact answersFit_captured (takeCommand_fits _ .step)
  case proceed => exact answersFit_captured (takeCommand_fits _ .proceed)
  case ringReset => exact answersFit_captured (takeCommand_fits _ .ringReset)
  case ambient => exact answersFit_captured (takeCommand_fits _ .ambient)
  case cueResync => exact answersFit_captured (takeCommand_fits _ .cueResync)
  case releaseInterlocks => exact answersFit_captured (takeCommand_fits _ .releaseInterlocks)
  case mute => exact answersFit_captured (takeCommand_fits _ .mute)
  case monitor => exact answersFit_captured (takeCommand_fits _ .monitor)
  case spaceTriggers => exact answersFit_captured (takeCommand_fits _ .spaceTriggers)
  case clearCounts => exact answersFit_captured (takeCommand_fits _ .clearCounts)
  case showCmdUnknownCode => exact answersFit_captured (takeShowCommand_fits _)
  case showCmdPartialWrite => exact answersFit (decideWord_fits _ _)
  case showArgWrite => exact answersFit_captured (takeArg_eases _ _ s).fits
  case cueMarkWrite => exact answersFit_captured (writeCueMark_eases _ s).fits
  case audioMarkWrite => exact answersFit_captured (writeAudioMark_eases _ s).fits
  case attnEnableWrite | attnClearWrite => exact answersFit_captured (setRu_eases s _).fits
  case causeWordRead => exact answersFit (presentRead_eases _ s).fits
  case stagingWordWrite => exact answersFit_captured (captureStaging_eases _ _ s).fits
  case programRow | eraseAll | setLock | clearStaging | limitCmdUnknownCode =>
    exact answersFit_captured (setLs_eases s _).fits
  case programRowCompletion => exact answersFit_outOfReset (completeProgramRow_eases _ s).fits
  case eraseAllCompletion => exact answersFit_outOfReset (completeEraseAll_eases s).fits
  case setLockCompletion => exact answersFit_outOfReset (completeSetLock_eases s).fits
  case processorWrite => exact answersFit (decideWord_fits _ _)
  case arbiterGrant => exact execArbiterGrant_answersFit _ due request
  case processorTransactionEnd => exact answersFit endTransaction_fits
  case fetchBurstCompletion => exact answersFit_outOfReset endBurst_fits
  case primingComplete => exact answersFit_outOfReset (primingTest_eases s).fits
  case waitingRecordExpansion => exact answersFit_outOfReset (retryHead_eases s).fits
  case syncInRising => exact answersFit_outOfReset (takeSync_eases s).fits
  case framePeriod => exact answersFit_outOfReset (playPeriod_eases s).fits
  case starvedResume => exact answersFit_outOfReset (resumePeriod_eases s).fits
  case starveLimit => exact answersFit_outOfReset (starveLimitTest_eases s).fits
  case winddownCompletion => exact answersFit_outOfReset winddownPeriod_fits
  case windowEnd => exact answersFit_outOfReset (endWindow_monitorsOnly _ s).eases.fits
  case fieldPeriod => exact answersFit_outOfReset takeFieldPeriod_fits
  case deferredCloseApply => exact answersFit_outOfReset (deferredClosePeriod_fits _)
  case colourPeriod => exact answersFit_outOfReset takeColourPeriod_fits
  case senseLevelChange => exact answersFit_outOfReset (changeLevel_eases _ _ s).fits
  case debounceTimerExpiry => exact answersFit_outOfReset (timerExpires_eases _ s).fits
  case windInRising => exact answersFit_outOfReset (setGu_eases s _).fits
  case windGateExpiry => exact answersFit_outOfReset (gateExpires_eases s).fits
  case resetAssert => exact answersFit fun _ => assertReset_fits s
  case resetRelease => exact answersFit (endReset_fits _ _)

theorem QueuesSound.fit {s : State} (h : QueuesSound s) : QueuesFit s := ⟨h.fifo, h.buffer, h.burst, h.resting⟩

/-- The end of every event brings the fetch request to that of a live show (R34). -/
theorem queuesSound_settle {x : State} (fit : QueuesFit x) : QueuesSound (settle x) := by
  obtain ⟨fifo, buffer, burst, resting⟩ := (settle_eases x).fits fit
  refine ⟨fifo, buffer, burst, resting, fun request => ?_⟩
  by_contra dead
  rw [settle_fetchRequest, wantsFetch_resting (by simpa using dead)] at request
  cases request

end Sys2Proof.Machine

open Sys2Proof Sys2Proof.Machine

/-- Settles O58: every command keeps the rules of the queues (`exec_answersFit`), given the arbiter's rule for grants. -/
theorem queuesStaySound : Obligations.QueuesStaySound := by
  unfold Obligations.QueuesStaySound
  intro s t sound arbiter taken
  obtain ⟨-, -, due⟩ := arbiter
  unfold step at taken
  split at taken
  case h_1 => cases taken; exact sound
  case h_2 c rest _ =>
    obtain ⟨x, row, keeps⟩ := exec_answersFit c (s := s.setPending rest) due sound.request
    rw [Host.Outcome.next.inj (taken.symm.trans row)]
    have queued : QueuesEase s (s.setPending rest) := eases_of_beside rfl rfl rfl rfl
    exact queuesSound_settle (keeps (queued.fits sound.fit))

end

section
/-! Proofs: cue records, their errors and their actions. -/

namespace Sys2Proof.Machine

/-! ## The actions of each kind (R48) -/

theorem CueRecord.actions_valves {r : CueRecord} (h : r.kind = 1) : r.actions = r.valveActions := by
  simp only [CueRecord.actions, h]

theorem CueRecord.actions_pump {r : CueRecord} (h : r.kind = 2) : r.actions = r.pumpActions := by
  simp only [CueRecord.actions, h]

theorem CueRecord.actions_light {r : CueRecord} (h : r.kind = 3) : r.actions = r.lightActions := by
  simp only [CueRecord.actions, h]

theorem CueRecord.actions_follow {r : CueRecord} (h : r.kind = 4) : r.actions = r.followActions := by
  simp only [CueRecord.actions, h]

theorem CueRecord.actions_mark {r : CueRecord} (h : r.kind = 5) : r.actions = some [.mark r.target r.notify] := by
  simp only [CueRecord.actions, h]

theorem CueRecord.actions_end {r : CueRecord} (h : r.kind = 6) : r.actions = some [.endShow] := by
  simp only [CueRecord.actions, h]

/-- A kind that R48 does not name is a cue error (R49). -/
theorem CueRecord.actions_unnamed {r : CueRecord} (h : r.kind = 0 ∨ 7 ≤ r.kind) : r.actions = none := by
  unfold CueRecord.actions
  split
  case h_7 => rfl
  all_goals omega

/-! ## Cue errors by kind (R49) -/

theorem CueRecord.valveActions_none (r : CueRecord) :
    r.valveActions = none ↔ 5 < r.target.toNat ∨ r.word2 = 0 := by
  rw [CueRecord.valveActions, ite_eq_right_iff]
  simp only [reduceCtorEq, imp_false, not_and_or, not_le, not_not]

theorem CueRecord.pumpActions_none (r : CueRecord) :
    r.pumpActions = none ↔ 15 < r.target.toNat ∨ 1000 < r.word2.toNat := by
  rw [CueRecord.pumpActions, ite_eq_right_iff]
  simp only [reduceCtorEq, imp_false, not_and_or, not_le]

theorem CueRecord.lightActions_none (r : CueRecord) :
    r.lightActions = none ↔ 63 < r.target.toNat ∨ r.groupCount = 0 ∨ 64 < r.target.toNat + r.groupCount := by
  rw [CueRecord.lightActions, ite_eq_right_iff]
  simp only [reduceCtorEq, imp_false, not_and_or, not_le, Nat.lt_one_iff]

theorem CueRecord.followActions_none (r : CueRecord) :
    r.followActions = none ↔ 63 < r.target.toNat ∨ (3 < r.word2.toNat ∧ r.word2.toNat ≠ 255) := by
  unfold CueRecord.followActions
  split
  case isTrue channel => simp only [reduceCtorEq, false_iff]; omega
  case isFalse noChannel =>
    split
    case isTrue unbinds => simp only [reduceCtorEq, false_iff]; omega
    case isFalse => simp only [true_iff]; omega

/-- A record is a cue error by its kind and the bounds of that kind (R49). -/
theorem CueRecord.actions_none (r : CueRecord) : r.actions = none ↔
    (r.kind = 0 ∨ 7 ≤ r.kind) ∨
    (r.kind = 1 ∧ (5 < r.target.toNat ∨ r.word2 = 0)) ∨
    (r.kind = 2 ∧ (15 < r.target.toNat ∨ 1000 < r.word2.toNat)) ∨
    (r.kind = 3 ∧ (63 < r.target.toNat ∨ r.groupCount = 0 ∨ 64 < r.target.toNat + r.groupCount)) ∨
    (r.kind = 4 ∧ (63 < r.target.toNat ∨ (3 < r.word2.toNat ∧ r.word2.toNat ≠ 255))) := by
  have kinds : (r.kind = 0 ∨ 7 ≤ r.kind) ∨ r.kind = 1 ∨ r.kind = 2 ∨ r.kind = 3 ∨ r.kind = 4 ∨ r.kind = 5 ∨
      r.kind = 6 := by omega
  rcases kinds with unnamed | h | h | h | h | h | h
  · simp only [CueRecord.actions_unnamed unnamed, unnamed, true_or]
  · rw [CueRecord.actions_valves h, r.valveActions_none]; simp [h]
  · rw [CueRecord.actions_pump h, r.pumpActions_none]; simp [h]
  · rw [CueRecord.actions_light h, r.lightActions_none]; simp [h]
  · rw [CueRecord.actions_follow h, r.followActions_none]; simp [h]
  · simp [CueRecord.actions_mark h, h]
  · simp [CueRecord.actions_end h, h]

/-! ## The entries of each kind (R48) -/

section
variable {r : CueRecord} {acts : List Action}

theorem CueRecord.valveActions_some (h : r.valveActions = some acts) : r.target.toNat ≤ 5 ∧
    acts = ((List.range 32).filter r.word2.getLsbD).map
      (fun i => .valve (Fin.ofNat 192 (32 * r.target.toNat + i)) (r.word3.getLsbD i)) := by
  unfold CueRecord.valveActions at h
  split at h
  case isTrue sound => exact ⟨sound.1, (Option.some.inj h).symm⟩
  case isFalse => cases h

/-- The valve of a bank's bit. -/
theorem valve_of_bit {bank i : Nat} (bound : bank ≤ 5) (bit : i < 32) :
    (Fin.ofNat 192 (32 * bank + i)).val = 32 * bank + i := Nat.mod_eq_of_lt (by omega)

/-- A VALVES record has an entry for a valve exactly when the valve is of its bank and masked, open by its states bit. -/
theorem CueRecord.mem_valveActions (h : r.valveActions = some acts) (v : Fin 192) (o : Bool) :
    .valve v o ∈ acts ↔
      v.val / 32 = r.target.toNat ∧ r.word2.getLsbD (v.val % 32) = true ∧ r.word3.getLsbD (v.val % 32) = o := by
  obtain ⟨bank, rfl⟩ := CueRecord.valveActions_some h
  simp only [List.mem_map, List.mem_filter, List.mem_range, Action.valve.injEq]
  constructor
  · rintro ⟨i, ⟨bit, masked⟩, rfl, rfl⟩
    have place := valve_of_bit bank bit
    have bank' : (32 * r.target.toNat + i) / 32 = r.target.toNat := by omega
    have bit' : (32 * r.target.toNat + i) % 32 = i := by omega
    rw [place, bank', bit']
    exact ⟨rfl, masked, rfl⟩
  · rintro ⟨ofBank, masked, opens⟩
    refine ⟨v.val % 32, ⟨Nat.mod_lt _ (by decide), masked⟩, Fin.ext ?_, opens⟩
    rw [valve_of_bit bank (Nat.mod_lt _ (by decide)), ← ofBank]
    exact Nat.div_add_mod v.val 32

theorem CueRecord.valveActions_are_valves (h : r.valveActions = some acts) : ∀ a ∈ acts, ∃ v o, a = .valve v o := by
  obtain ⟨-, rfl⟩ := CueRecord.valveActions_some h
  intro a listed
  obtain ⟨i, -, rfl⟩ := List.mem_map.mp listed
  exact ⟨_, _, rfl⟩

/-- The entries of a VALVES record stand in ascending order of their valves. -/
theorem CueRecord.valveActions_ascend (h : r.valveActions = some acts) :
    acts.Pairwise (fun a b => ∀ v o w q, a = .valve v o → b = .valve w q → v < w) := by
  obtain ⟨bank, rfl⟩ := CueRecord.valveActions_some h
  refine List.pairwise_map.mpr ((List.pairwise_lt_range.filter _).imp_of_mem ?_)
  intro i j inI inJ lt v o w q first second
  cases first
  cases second
  have bitI := List.mem_range.mp (List.mem_filter.mp inI).1
  have bitJ := List.mem_range.mp (List.mem_filter.mp inJ).1
  rw [Fin.lt_def, valve_of_bit bank bitI, valve_of_bit bank bitJ]
  omega

theorem CueRecord.pumpActions_some (h : r.pumpActions = some acts) :
    ∃ p : Fin 16, p.val = r.target.toNat ∧ acts = [.pump p r.word2.toNat] := by
  unfold CueRecord.pumpActions at h
  split at h
  case isTrue sound => exact ⟨_, Nat.mod_eq_of_lt (Nat.lt_succ_of_le sound.1), (Option.some.inj h).symm⟩
  case isFalse => cases h

/-- A LIGHT record has one entry for each group of its run, in ascending order. -/
theorem CueRecord.lightActions_some (h : r.lightActions = some acts) : acts.length = r.groupCount ∧
    ∀ i < r.groupCount, ∃ g : Fin 64, g.val = r.target.toNat + i ∧ acts[i]? = some (.light g r.colour r.fade) := by
  unfold CueRecord.lightActions at h
  split at h
  case isTrue sound =>
    obtain ⟨-, -, run⟩ := sound
    cases h
    refine ⟨by rw [List.length_map, List.length_range], fun i inRun => ⟨Fin.ofNat 64 (r.target.toNat + i), ?_, ?_⟩⟩
    · exact Nat.mod_eq_of_lt (by omega)
    · rw [List.getElem?_map, List.getElem?_range inRun]; rfl
  case isFalse => cases h

/-- A FOLLOW record unbinds its group for 255, and binds it to a channel otherwise. -/
theorem CueRecord.followActions_some (h : r.followActions = some acts) : ∃ g : Fin 64, g.val = r.target.toNat ∧
    ((r.word2.toNat = 255 ∧ acts = [.follow g none]) ∨
      ∃ c : Fin 4, r.word2.toNat = c.val ∧ acts = [.follow g (some c)]) := by
  have group : r.target.toNat ≤ 63 → (Fin.ofNat 64 r.target.toNat).val = r.target.toNat := fun le =>
    Nat.mod_eq_of_lt (Nat.lt_succ_of_le le)
  unfold CueRecord.followActions at h
  split at h
  case isTrue binds =>
    exact ⟨_, group binds.1, .inr ⟨Fin.ofNat 4 r.word2.toNat, (Nat.mod_eq_of_lt (Nat.lt_succ_of_le binds.2)).symm,
      (Option.some.inj h).symm⟩⟩
  case isFalse =>
    split at h
    case isTrue unbinds => exact ⟨_, group unbinds.1, .inl ⟨unbinds.2, (Option.some.inj h).symm⟩⟩
    case isFalse => cases h

end

end Sys2Proof.Machine

open Sys2Proof Sys2Proof.Machine

/-- Settles O37: the cue errors of R49, and the entries of each kind of R48. -/
theorem recordsExpandByKind : Obligations.RecordsExpandByKind := by
  unfold Obligations.RecordsExpandByKind
  refine ⟨fun r => r.actions_none, fun r acts sound => ?_⟩
  refine ⟨fun valves => ?_, fun pump => ?_, fun light => ?_, fun follow => ?_, fun mark => ?_, fun last => ?_⟩
  · have entries := (CueRecord.actions_valves valves).symm.trans sound
    exact ⟨CueRecord.mem_valveActions entries, CueRecord.valveActions_are_valves entries,
      CueRecord.valveActions_ascend entries⟩
  · exact CueRecord.pumpActions_some ((CueRecord.actions_pump pump).symm.trans sound)
  · exact CueRecord.lightActions_some ((CueRecord.actions_light light).symm.trans sound)
  · exact CueRecord.followActions_some ((CueRecord.actions_follow follow).symm.trans sound)
  · exact Option.some.inj (sound.symm.trans (CueRecord.actions_mark mark))
  · exact Option.some.inj (sound.symm.trans (CueRecord.actions_end last))

end

section
/-! Proofs: a run over two records, WAITING_RECORD_EXPANSION and CUE_RESYNC. -/

namespace Sys2Proof.Machine

/-! ## Runs over two records (R51) -/

/-- The examination of a record leaves the count of meetings. -/
theorem examineRecord_meetings (r : CueRecord) (rest : List CueRecord) (s : State) :
    (examineRecord r rest s).state.meetings = s.meetings := by
  have settled : ∀ t, (settleHead r rest t).state.meetings = t.meetings := by
    intro t; unfold settleHead; repeat' split
    all_goals rfl
  unfold examineRecord
  repeat' split
  · exact settled s
  · rfl
  · exact settled (sequenceMatch r s)
  · rfl

/-- An examination brings no advance and takes none away. -/
theorem advanceNext_examineRecord (r : CueRecord) (rest : List CueRecord) (s : State) :
    AdvanceNext (examineRecord r rest s).state ↔ AdvanceNext s := by
  rw [← advanceWaits_iff, ← advanceWaits_iff, advanceWaits_examineRecord]

/-- What a run from `s` leaves when its head leaves state `e`, with `q` alone behind the head: an advance that comes next is
met there, and where it is taken first it divides the run; else `q` is examined. -/
structure BehindExamined (q : CueRecord) (s e t : State) : Prop where
  met : t.meetings = s.meetings + (if AdvanceNext s then 1 else 0)
  divided : AdvanceNext s ∧ Config.advanceDivides s.meetings = true →
    t.sq = { e.sq with runDivided := true } ∧ t.fu = e.fu ∧ t.ru = e.ru
  examined : ¬(AdvanceNext s ∧ Config.advanceDivides s.meetings = true) →
    ExaminedTo (examinedHead e.sq e.fu.expectedSequence q) e t

/-- A run over a head that leaves and one record behind it, in a stream that is not blocked (R51). -/
theorem examineRun_pair {p q : CueRecord} {s e : State} (record : examineRecord p [q] s = { state := e, left := true })
    (free : e.fu.cueBlocked = false) : BehindExamined q s e (examineRun [p, q] s) := by
  have left : (examineRecord p [q] s).left = true := by rw [record]
  obtain ⟨buffer, fresh⟩ := examineRecord_left left
  have meetings := examineRecord_meetings p [q] s
  have next := advanceNext_examineRecord p [q] s
  rw [record] at buffer fresh meetings next
  have meets : runMeets [q] (examineRecord p [q] s).state = advanceWaits e := by rw [record, runMeets, free]; simp
  have single : ∀ n, ExaminedTo (examinedHead e.sq e.fu.expectedSequence q) e (examineRun [q] (e.setMeetings n)) ∧
      (examineRun [q] (e.setMeetings n)).meetings = n := fun n => by
    have one := examineRun_single (q := q) (s := e.setMeetings n) fresh free buffer
    exact ⟨⟨one.sq, one.fu, one.ru⟩, by rw [examineRun_one, examineRecord_meetings]; rfl⟩
  by_cases waits : AdvanceNext s
  · have met := meets.trans ((advanceWaits_iff e).mpr (next.mpr waits))
    by_cases first : Config.advanceDivides s.meetings = true
    · have run : examineRun [p, q] s = divideRun (countMeeting e) := by
        rw [examineRun_meets left met, record, if_pos (by rw [meetings]; exact first)]
      rw [run]
      exact ⟨by rw [if_pos waits, ← meetings]; rfl, fun _ => ⟨rfl, rfl, rfl⟩, fun other => absurd ⟨waits, first⟩ other⟩
    · have run : examineRun [p, q] s = examineRun [q] (e.setMeetings (s.meetings + 1)) := by
        rw [examineRun_meets left met, record, if_neg (by rw [meetings]; exact first), countMeeting, meetings]
      obtain ⟨one, count⟩ := single (s.meetings + 1)
      rw [run]
      exact ⟨by rw [count, if_pos waits], fun both => absurd both.2 first, fun _ => one⟩
  · have unmet := meets.trans (Bool.eq_false_iff.mpr (mt (advanceWaits_iff e).mp (mt next.mp waits)))
    have run : examineRun [p, q] s = examineRun [q] (e.setMeetings s.meetings) := by
      rw [examineRun_goesOn left unmet, record, ← meetings]; rfl
    obtain ⟨one, count⟩ := single s.meetings
    rw [run]
    exact ⟨by rw [count, if_neg waits, Nat.add_zero], fun both => absurd both.1 waits, fun _ => one⟩

/-! ## Waiting heads (R59, R60) -/

/-- What an event that examines heads leaves, for the state `a` of its examination. -/
structure HeadDone (s a t : State) : Prop where
  sq : t.sq = a.sq
  fetch : FetchKept a t
  report : ReportKept a t
  meetings : t.meetings = a.meetings
  au : t.au = s.au
  plant : PlantKept s t
  ground : GroundKept s t
  path : PathKept s t

/-- WAITING_RECORD_EXPANSION completes with the head tried again (log entry 5). -/
theorem completes_expansion {s : State} {P : State → Prop} (out : s.inReset = false)
    (h : ∀ t, HeadDone s (retryHead s) t → P t) : Completes .waitingRecordExpansion s P := by
  have only := retryHead_headOnly s
  refine completes_event (f := retryHead) rfl out (h _ ?_)
  exact {
    sq := settle_sq _, fetch := fetchKept_settle rfl, report := reportKept_settle rfl, meetings := rfl
    au := only.au, plant := ⟨only.wu, only.lu, only.gu, only.ls⟩
    ground := groundKept_of only.inReset only.mem, path := pathKept_settle only.pu }

/-- Where the head is left as it stands, WAITING_RECORD_EXPANSION does nothing. -/
theorem completes_noExpansion {s : State} (out : s.inReset = false) (same : retryHead s = s) :
    Completes .waitingRecordExpansion s (NothingDone s) :=
  completes_event (f := retryHead) rfl out (by rw [same]; exact nothingDone_settle s)

theorem retryHead_unmarked {s : State} (h : s.sq.headAccepted = false) : retryHead s = s := by simp [retryHead, h]

theorem retryHead_resting {s : State} (h : s.sq.state.live = false) : retryHead s = s := by
  rw [retryHead, examineHead_resting h, ite_self]

section
variable {p : CueRecord} {acts : List Action} {s : State}

theorem retryHead_waiting (live : s.sq.state.live = true) (waiting : s.sq.headAccepted = true) :
    retryHead s = examineRun s.fu.cueBuffer s := by
  rw [retryHead, if_pos waiting, examineHead_live live]

/-- A waiting head is examined for room alone (R51). -/
theorem examineRecord_waiting (waiting : s.sq.headAccepted = true) (rest : List CueRecord) :
    examineRecord p rest s = settleHead p rest s := by rw [examineRecord, if_pos waiting]

/-- A waiting head without room stays as it stands (R60). -/
theorem retryHead_full (waiting : s.sq.headAccepted = true) (actions : p.actions = some acts) {rest : List CueRecord}
    (buffer : s.fu.cueBuffer = p :: rest) (full : 512 < s.sq.table.length + acts.length) : retryHead s = s := by
  have stays : examineRecord p rest s = { state := s, left := false } := by
    rw [examineRecord_waiting waiting, settleHead_waits actions (not_le.mpr full)]
  by_cases live : s.sq.state.live = true
  · rw [retryHead_waiting live waiting, buffer, examineRun_stays (by rw [stays]), stays]
  · exact retryHead_resting (by simpa using live)

/-- The sequencer after a head has been expanded (R58, R59). -/
theorem expandHead_sq (p : CueRecord) (acts : List Action) (rest : List CueRecord) (s : State) :
    (expandHead p acts rest s).sq = { withEntries s.sq p acts with headAccepted := false } := by
  rw [expandHead, expand_eq_withEntries]; rfl

end

/-! ## Due positions (R55, R56) -/

theorem toNat_dueAfterLead (time : Word) (lead : Nat) : (dueAfterLead time lead).toNat = time.toNat - lead := by
  rw [dueAfterLead, BitVec.toNat_ofNat]
  exact Nat.mod_eq_of_lt (by have := time.isLt; omega)

theorem toNat_dueAfterLag (time : Word) (lag : Nat) :
    (dueAfterLag time lag).toNat = min 4294967295 (time.toNat + lag) := by
  have last : Config.positionMax.toNat = 4294967295 := rfl
  rw [dueAfterLag, BitVec.toNat_ofNat, last, min_comm]
  exact Nat.mod_eq_of_lt (by omega)

/-! ## CUE_RESYNC (R54) -/

/-- The stream after an accepted CUE_RESYNC, before a head is examined. -/
def resynced (s : State) : State :=
  s.setFu { s.fu with expectedSequence := s.ru.arg0.extractLsb' 0 8, cueBlocked := false }

theorem resyncOutcome_eq (s : State) : resyncOutcome s = if s.ru.arg0.toNat ≤ 255 then .accepted else .refusedArg := by
  simp [resyncOutcome, argOutcome]

theorem takeResync_eq (s : State) :
    takeResync s = if s.sq.headAccepted then resynced s else examineHead (resynced s) := by
  have byte : BitVec.ofNat 8 s.ru.arg0.toNat = s.ru.arg0.extractLsb' 0 8 :=
    BitVec.eq_of_toNat_eq (by rw [BitVec.toNat_ofNat, BitVec.extractLsb'_toNat, Nat.shiftRight_zero])
  simp only [takeResync, byte]; rfl

/-- A head that has not passed its check is examined at a CUE_RESYNC (R54). -/
theorem takeResync_examines {s : State} (live : s.sq.state.live = true) (fresh : s.sq.headAccepted = false) :
    takeResync s = examineRun s.fu.cueBuffer (resynced s) := by
  rw [takeResync_eq, fresh, if_neg Bool.false_ne_true, examineHead_live (s := resynced s) live]; rfl

/-- Where the show does not decode, or no head is to be checked, a CUE_RESYNC sets the stream alone (R54). -/
theorem takeResync_alone {s : State}
    (h : s.sq.state.live = false ∨ s.fu.cueBuffer = [] ∨ s.sq.headAccepted = true) : takeResync s = resynced s := by
  by_cases passed : s.sq.headAccepted = true
  · rw [takeResync_eq, if_pos passed]
  · by_cases live : s.sq.state.live = true
    · have empty : s.fu.cueBuffer = [] := by simpa [live, passed] using h
      rw [takeResync_examines live (by simpa using passed), empty]; rfl
    · rw [takeResync_eq, if_neg passed, examineHead_resting (s := resynced s) (Bool.eq_false_iff.mpr live)]

theorem takeResync_headOnly (s : State) : HeadOnly s (takeResync s) := by
  have set : HeadOnly s (resynced s) := ⟨rfl, rfl, rfl, rfl, rfl, rfl, rfl, rfl, rfl⟩
  rw [takeResync_eq]
  split
  · exact set
  · exact set.trans (examineHead_headOnly _)

/-- What an accepted CUE_RESYNC leaves, for the state `a` of its examination. -/
structure ResyncDone (burst : Bool) (s a t : State) : Prop where
  sq : t.sq = a.sq
  fetch : FetchKept a t
  report : t.ru = { a.ru with code := 0x08, outcome := .accepted, attention := t.ru.attention }
  au : t.au = s.au
  plant : PlantKept s t
  ground : GroundKept s t
  posted : Posted Config.showCmd 0x08 burst s t

theorem completes_resync {burst : Bool} {s : State} {P : State → Prop} (path : PathDecides burst s)
    (byte : s.ru.arg0.toNat ≤ 255) (h : ∀ t, ResyncDone burst s (takeResync s) t → P t) :
    Completes (.cueResync burst) s P := by
  have only := takeResync_headOnly s
  have effect : takeCommand 0x08 (resyncOutcome s) takeResync s = recordResult 0x08 .accepted (takeResync s) := by
    rw [takeCommand, resyncOutcome_eq, if_pos byte, if_pos rfl]
  refine completes_captured rfl path fun t done => h t ?_
  rw [effect] at done
  obtain ⟨wu, lu, gu, ls⟩ := done.plant
  exact {
    sq := done.sq, fetch := done.fetch, report := done.report
    au := done.au.trans only.au
    plant := ⟨wu.trans only.wu, lu.trans only.lu, gu.trans only.gu, ls.trans only.ls⟩
    ground := done.ground.of_eq only.inReset only.mem
    posted := done.path.of_eq only.pu }

/-- A head of the expected number that is a cue error is consumed (R49, R52). -/
theorem examineRecord_error {r : CueRecord} {s : State} (fresh : s.sq.headAccepted = false)
    (free : s.fu.cueBlocked = false) (number : r.sequence = s.fu.expectedSequence) (error : r.actions = none)
    (rest : List CueRecord) :
    examineRecord r rest s = { state := consumeError rest (sequenceMatch r s), left := true } := by
  rw [← settleHead_error error]
  simp [examineRecord, fresh, free, number]

/-- The sequencer after a fresh head has been consumed as a cue error (R49, R52). -/
def Sequencer.consumed (x : Sequencer) (r : CueRecord) : Sequencer :=
  { x with foundSequence := r.sequence, cueErrorCount := saturate16 x.cueErrorCount 1 }

/-- A fresh head consumed as a cue error is counted with CUE raised, and leaves the records behind it (R49, R52). -/
theorem consumeError_matched {r : CueRecord} {s : State} (fresh : s.sq.headAccepted = false) (rest : List CueRecord) :
    (consumeError rest (sequenceMatch r s)).sq = s.sq.consumed r ∧
    (consumeError rest (sequenceMatch r s)).fu =
      { s.fu with expectedSequence := r.sequence + 1, cueBuffer := rest } ∧
    (consumeError rest (sequenceMatch r s)).ru = { s.ru with pending := s.ru.pending ||| 8 } := by
  refine ⟨?_, rfl, rfl⟩
  rw [Sequencer.consumed, fresh]; rfl

/-- CUE raised again is CUE raised once. -/
theorem or_cue_again (x : BitVec 9) (b : Bool) : x ||| 8 ||| (if b then 8 else 0) = x ||| 8 := by
  cases b
  · exact BitVec.or_zero
  · rw [BitVec.or_assoc]; rfl

end Sys2Proof.Machine

open Sys2Proof Sys2Proof.Machine

/-- Settles O38: a waiting head with room, with and without a record behind it, the cases in which nothing happens, and the due
positions. -/
theorem waitingRecordExpands : Obligations.WaitingRecordExpands := by
  unfold Obligations.WaitingRecordExpands
  refine ⟨fun s out => ⟨?_, ?_, ?_, ?_, ?_⟩, fun x time => ⟨?_, ?_, ?_, ?_, ?_, rfl⟩⟩
  · intro r acts live waiting buffer actions fits
    have record := (examineRecord_waiting waiting []).trans (settleHead_fits actions fits [])
    refine completes_expansion out fun t done => ?_
    rw [retryHead_waiting live waiting, buffer, examineRun_one, record] at done
    exact ⟨done.sq.trans (expandHead_sq ..), done.fetch, done.au, done.plant, done.ground, done.path, done.report⟩
  · intro r q acts live waiting free buffer actions fits
    have record := (examineRecord_waiting waiting [q]).trans (settleHead_fits actions fits [q])
    have behind := examineRun_pair record free
    have sq := expandHead_sq r acts [q] s
    refine completes_expansion out fun t done => ?_
    rw [retryHead_waiting live waiting, buffer] at done
    generalize examineRun [r, q] s = a at behind done
    have fetch := done.fetch
    have report := done.report
    rw [FetchKept] at fetch
    rw [ReportKept] at report
    refine ⟨?_, done.meetings.trans behind.met, done.au, done.plant, done.ground, done.path⟩
    split
    case isTrue first =>
      obtain ⟨sq', fu', ru'⟩ := behind.divided first
      rw [fu'] at fetch
      rw [ru'] at report
      exact ⟨done.sq.trans (sq'.trans (by rw [sq])), fetch, report⟩
    case isFalse other =>
      have one := behind.examined other
      rw [sq] at one
      rw [one.fu] at fetch
      rw [one.ru] at report
      exact ⟨done.sq.trans one.sq, fetch, report⟩
  · exact fun r rest acts waiting buffer actions full =>
      completes_noExpansion out (retryHead_full waiting actions buffer full)
  · exact fun fresh => completes_noExpansion out (retryHead_unmarked fresh)
  · exact fun dead => completes_noExpansion out (retryHead_resting dead)
  · exact fun v o => toNat_dueAfterLead time _
  · exact fun p speed => toNat_dueAfterLead time _
  · exact fun g colour fade => toNat_dueAfterLag time _
  · exact fun g c => toNat_dueAfterLag time _
  · exact fun n k => rfl

/-- Settles O21: CUE_RESYNC by what stands at the head of the buffer, and its refusal. -/
theorem resyncChecksBlockedHead : Obligations.ResyncChecksBlockedHead := by
  unfold Obligations.ResyncChecksBlockedHead
  intro s burst path
  have number : ∀ r : CueRecord, r.sequence = (resynced s).fu.expectedSequence ↔
      r.sequence.toNat = s.ru.arg0.toNat % 256 := fun r => by
    rw [← BitVec.toNat_inj]
    exact Iff.rfl
  refine ⟨fun byte unchecked => ?_, ?_, ?_, ?_, fun large => ?_⟩
  · refine completes_resync path byte fun t done => ?_
    rw [takeResync_alone unchecked] at done
    exact ⟨done.fetch, ⟨done.sq, done.au⟩, done.plant, done.ground, done.posted, done.report⟩
  · intro r rest byte live buffer fresh other
    have broken := examineRun_break (s := resynced s) (r := r) fresh rfl (by rw [ne_eq, number]; omega) rest
    refine completes_resync path byte fun t done => ?_
    rw [takeResync_examines live fresh, buffer, broken] at done
    exact ⟨done.fetch, done.sq, done.au, done.plant, done.ground, done.posted, done.report⟩
  · intro r byte live buffer fresh
    have one := examineRun_single (s := resynced s) fresh rfl buffer
    refine completes_resync path byte fun t done => ?_
    rw [takeResync_examines live fresh, buffer] at done
    have fetch := done.fetch
    have report := done.report
    rw [FetchKept, one.fu] at fetch
    rw [one.ru] at report
    exact ⟨fetch, done.sq.trans one.sq, done.au, done.plant, done.ground, done.posted, report⟩
  · intro r q byte live buffer fresh same error
    have record := examineRecord_error (s := resynced s) (r := r) fresh rfl ((number r).mpr (by omega)) error [q]
    have behind := examineRun_pair record rfl
    obtain ⟨sq, fu, ru⟩ := consumeError_matched (s := resynced s) (r := r) fresh [q]
    refine completes_resync path byte fun t done => ?_
    rw [takeResync_examines live fresh, buffer] at done
    generalize consumeError [q] (sequenceMatch r (resynced s)) = e at behind sq fu ru
    generalize examineRun [r, q] (resynced s) = a at behind done
    have fetch := done.fetch
    have report := done.report
    rw [FetchKept] at fetch
    by_cases first : AdvanceNext s ∧ Config.advanceDivides s.meetings = true
    · obtain ⟨sq', fu', ru'⟩ := behind.divided first
      rw [sq] at sq'
      rw [fu', fu] at fetch
      rw [ru', ru] at report
      refine ⟨?_, done.au, done.plant, done.ground, done.posted, report⟩
      rw [if_pos first]
      exact ⟨fetch, done.sq.trans sq'⟩
    · have one := behind.examined first
      rw [sq, fu] at one
      rw [one.fu, fu] at fetch
      rw [one.ru, ru] at report
      dsimp only at report
      rw [or_cue_again] at report
      refine ⟨?_, done.au, done.plant, done.ground, done.posted, report⟩
      rw [if_neg first]
      exact ⟨fetch, done.sq.trans one.sq⟩
  · exact completes_refused rfl path (by rw [resyncOutcome_eq, if_neg (by omega)]) (by decide)

end

section
/-! Proofs: the delivery of a single due entry in a frame period. -/

namespace Sys2Proof.Machine

/-! ## One entry due (R62) -/

/-- The state in which the entry `e` at the front of the table has been taken at an advance, with `later` left behind it. -/
def entryTaken (e : ReleaseEntry) (later : List ReleaseEntry) (s : State) : State :=
  takeEntry e later (moved (dropFrame s))

/-- The state in which that entry has been delivered. -/
def entryDelivered (e : ReleaseEntry) (later : List ReleaseEntry) (s : State) : State :=
  deliver e.action (entryTaken e later s)

/-- The sequencer of `x` after an advance that has taken `e` alone from the table (R7, R62, R70). -/
def Sequencer.released (x : Sequencer) (e : ReleaseEntry) (later : List ReleaseEntry) : Sequencer :=
  { x with position := x.position + 1, table := later, lastReleased := some e.source }

/-- A frame period of a RUNNING show with a frame to take and the entry `e` alone due, with no head waiting and no run
divided. -/
structure OneDue (s : State) (e : ReleaseEntry) (later : List ReleaseEntry) : Prop where
  out : s.inReset = false
  clock : s.au.clock.isSome = true
  running : s.sq.state = .running
  limit : s.sq.position ≠ 0xFFFFFFFF
  frames : s.au.fifo ≠ []
  fresh : s.sq.headAccepted = false
  whole : s.sq.runDivided = false
  table : s.sq.table = e :: later
  due : e.due.toNat ≤ s.sq.position.toNat + 1
  stop : ∀ x, later.head? = some x → s.sq.position.toNat + 1 < x.due.toNat

theorem entryDelivered_showOnly (e : ReleaseEntry) (later : List ReleaseEntry) (s : State) :
    ShowOnly (dropFrame s) (entryDelivered e later s) :=
  (ShowOnly.ofSq (dropFrame s) _).trans (deliver_showOnly _ _)

section
variable {s : State} {e : ReleaseEntry} {later : List ReleaseEntry}

/-- The releases of an advance with one entry due, no END, deliver that entry, and call for the at-mark hold when it is a MARK
that the hold-pending mode waits for (R15, R62). -/
theorem OneDue.releases (h : OneDue s e later) (other : e.action ≠ .endShow) : releases (dropFrame s) =
    { state := entryDelivered e later s, ended := false
      holdCalled := e.action.isMark && decide (s.sq.holdPending = .atMark), freed := true } := by
  have sq : (entryDelivered e later s).sq = _ := deliver_sq other (entryTaken e later s)
  have reached : e.due ≤ (moved (dropFrame s)).sq.position := (due_moved (s := dropFrame s) h.limit).mpr h.due
  have position : (entryDelivered e later s).sq.position = (moved (dropFrame s)).sq.position := by rw [sq]; rfl
  have behind : releaseDue later (entryDelivered e later s) = _ := releaseDue_none fun x front due =>
    Nat.not_lt.mpr ((due_moved (s := dropFrame s) h.limit).mp (position ▸ due)) (h.stop x front)
  rw [Machine.releases, show (dropFrame s).sq.table = e :: later from h.table, releaseDue_cons reached other,
    ← entryTaken, ← entryDelivered, behind, Bool.false_or]
  rfl

/-- The report of the period is the delivery of the one entry, and the at-mark hold where it is called for (R7, R15, R62). -/
theorem OneDue.reported (h : OneDue s e later) (other : e.action ≠ .endShow) : reported s =
    if e.action.isMark && decide (s.sq.holdPending = .atMark) then holdForHost (entryDelivered e later s)
    else entryDelivered e later s := by
  have sq : (entryDelivered e later s).sq = _ := deliver_sq other (entryTaken e later s)
  have whole : (entryDelivered e later s).sq.runDivided = false := by rw [sq]; exact h.whole
  have fresh : (entryDelivered e later s).sq.headAccepted = false := by rw [sq]; exact h.fresh
  have held : (holdForHost (entryDelivered e later s)).sq.runDivided = false := whole
  rw [reported_running h.running (.inl h.frames), advance_releases (s := dropFrame s) h.limit, h.releases other]
  simp [afterReleases, examineAfter, retryHead, whole, fresh, resumeRun_whole held]

/-- An entry that is neither END nor MARK is delivered, and nothing follows. -/
theorem OneDue.reported_plain (h : OneDue s e later) (other : e.action ≠ .endShow) (plain : e.action.isMark = false) :
    Machine.reported s = entryDelivered e later s := by
  rw [h.reported other, plain]; rfl

end

/-- What a frame period leaves beside sequencer, audio, water, light and report unit, when it delivers one entry. -/
theorem PeriodDone.beside {s r t : State} (done : PeriodDone r t) (only : ShowOnly (dropFrame s) r) :
    t.gu = s.gu ∧ t.ls = s.ls ∧ GroundKept s t ∧ FetchKept s t ∧ PathKept s t :=
  ⟨done.gu.trans only.gu, done.ls.trans only.ls, done.ground.of_eq only.inReset only.mem, done.fetch.of_eq only.fu,
    done.path.of_eq only.pu⟩

/-! ## Water entries (R63, R64) -/

/-- What a frame period leaves that delivers the entry `e` to the water unit, which becomes `x`. -/
structure WaterDelivered (e : ReleaseEntry) (later : List ReleaseEntry) (x : WaterUnit) (s t : State) : Prop where
  sq : t.sq = s.sq.released e later
  wu : t.wu = x
  kept : t.gu = s.gu ∧ t.ls = s.ls ∧ GroundKept s t ∧ FetchKept s t ∧ PathKept s t ∧ ReportKept s t

/-- An entry whose delivery changes the water unit alone. -/
theorem OneDue.completes_water {s : State} {e : ReleaseEntry} {later : List ReleaseEntry} {x : WaterUnit} {P : State → Prop}
    (h : OneDue s e later) (other : e.action ≠ .endShow) (plain : e.action.isMark = false)
    (delivery : entryDelivered e later s = (entryTaken e later s).setWu x)
    (leaves : ∀ t, WaterDelivered e later x s t → P t) : Completes .framePeriod s P := by
  have only := entryDelivered_showOnly e later s
  refine completes_framePeriod h.out h.clock fun t done => leaves t ?_
  rw [h.reported_plain other plain] at done
  obtain ⟨gu, ls, ground, fetch, path⟩ := done.beside only
  rw [delivery] at done
  exact ⟨done.sq, done.wu, gu, ls, ground, fetch, path, done.report.of_eq rfl⟩

/-- The wanted open count of a header once valve v is wanted closed (R94, R97). -/
theorem headerCount_bitErase (t : LimitTable) (p : Nat) (image : BitVec 192) (v : Nat) :
    headerCount t p (bitErase image v) =
      (List.range 192).countP (fun w => decide (w ≠ v) && image.getLsbD w && t.onHeader p w) := by
  refine congrArg (fun f => (List.range 192).countP f) (funext fun w => ?_)
  rw [getLsbD_bitErase, ← decide_not, Bool.and_comm (image.getLsbD w)]
  simp only [ne_eq, eq_comm]

/-- A close of a wanted-open valve finds a pump that blocks it (R94, R97). -/
theorem hasBlocking_wantedClosed (s : State) (v : Nat) : hasBlocking (wantedClosed v s) v = true ↔
    ∃ p : Fin 16, s.ls.table.idleSpeed p < s.wu.output[p] ∧ s.ls.table.onHeader p v = true ∧
      (List.range 192).countP (fun w => decide (w ≠ v) && s.wu.wanted.getLsbD w && s.ls.table.onHeader p w) <
        s.ls.table.minOpen p := by
  rw [hasBlocking_iff]
  refine exists_congr fun p => ?_
  rw [aboveIdle_iff, shortHeader_iff, ← headerCount_bitErase]
  rfl

/-- An open sets its valve in both images and withdraws a deferred close of it (R96). -/
theorem wantOpen_images (v : Fin 192) (s : State) (w : Fin 192) :
    (wantOpen v s).wu.wanted.getLsbD w = (s.wu.wanted.getLsbD w || decide (w = v)) ∧
    (wantOpen v s).wu.applied.getLsbD w = (s.wu.applied.getLsbD w || decide (w = v)) ∧
    (wantOpen v s).wu.deferred.getLsbD w = (s.wu.deferred.getLsbD w && decide (w ≠ v)) := by
  have same : decide (v.val = w.val) = decide (w = v) := decide_eq_decide.mpr (by rw [eq_comm, Fin.ext_iff])
  have other : (!decide (w = v)) = decide (w ≠ v) := (decide_not).symm
  refine ⟨?_, ?_, ?_⟩
  · exact (getLsbD_bitInsert s.wu.wanted v w).trans (by rw [same, decide_eq_true v.isLt, Bool.true_and])
  · exact (getLsbD_bitInsert s.wu.applied v w).trans (by rw [same, decide_eq_true v.isLt, Bool.true_and])
  · exact (getLsbD_bitErase s.wu.deferred v w).trans (by rw [same, other])

/-- A close of a wanted-open valve closes it in the applied image unless a pump blocks it, when the close is deferred (R97). -/
theorem wantClose_images {v : Fin 192} {s : State} (open_ : s.wu.wanted.getLsbD v = true) {blocked : Prop}
    (h : hasBlocking (wantedClosed v s) v = true ↔ blocked) (w : Fin 192) :
    ((wantClose v s).wu.applied.getLsbD w = true ↔ s.wu.applied.getLsbD w = true ∧ (w ≠ v ∨ blocked)) ∧
    ((wantClose v s).wu.deferred.getLsbD w = true ↔ s.wu.deferred.getLsbD w = true ∨ (w = v ∧ blocked)) := by
  have same : v.val = w.val ↔ w = v := by rw [eq_comm, Fin.ext_iff]
  rw [wantClose_open open_]
  by_cases blocks : hasBlocking (wantedClosed v s) v = true
  · rw [applyOrDefer_blocked blocks]
    have held := h.mp blocks
    refine ⟨by simp [wantedClosed, held], ?_⟩
    rw [wu_setWu, getLsbD_bitInsert, decide_eq_true v.isLt, Bool.true_and, Bool.or_eq_true, decide_eq_true_eq, same]
    simp [wantedClosed, held]
  · rw [applyOrDefer_free (by simpa using blocks)]
    have free := mt h.mpr blocks
    refine ⟨?_, by simp [wantedClosed, free]⟩
    rw [wu_setWu, getLsbD_bitErase, Bool.and_eq_true, Bool.not_eq_true', decide_eq_false_iff_not, same]
    simp [wantedClosed, free]

/-! ## Light entries and marks (R65, R66, R67) -/

/-- A monitor that is off takes no sample (R86). -/
theorem feedMonitor_off {c : Fin 4} {s : State} (off : s.au.monitors[c].window = 0) (samples : Vector Half 4) :
    feedMonitor samples c s = s := by
  have silent : s.au.monitors[c].isOn = false := decide_eq_false (not_not_intro off)
  simp only [feedMonitor, silent, Bool.false_and, Bool.false_eq_true, if_false]

/-- With all monitors off a frame period feeds none. -/
theorem feedMonitors_off {s : State} (off : ∀ c : Fin 4, s.au.monitors[c].window = 0) (samples : Vector Half 4) :
    feedMonitors samples s = s := by
  simp only [feedMonitors, feedMonitor_off (off _)]

/-- With all monitors off a frame period leaves the light unit as its report leaves it. -/
theorem playPeriod_lu_off {s : State} (clock : s.au.clock.isSome = true)
    (off : ∀ c : Fin 4, (reported s).au.monitors[c].window = 0) : (playPeriod s).lu = (reported s).lu := by
  rw [playPeriod_runs clock,
    feedMonitors_off (s := shiftOut (emitted (reported s) (periodFrame s)) (reported s)) off]
  rfl

/-- What a frame period leaves with the monitors off, when it delivers one entry and its report leaves `r`. -/
structure LightDelivered (s r t : State) : Prop where
  sq : t.sq = r.sq
  wu : t.wu = r.wu
  lu : t.lu = r.lu
  report : ReportKept r t
  beside : t.gu = s.gu ∧ t.ls = s.ls ∧ GroundKept s t ∧ FetchKept s t ∧ PathKept s t

theorem completes_light {s r : State} {P : State → Prop} (out : s.inReset = false) (clock : s.au.clock.isSome = true)
    (off : ∀ c : Fin 4, s.au.monitors[c].window = 0) (report : reported s = r) (only : ShowOnly (dropFrame s) r)
    (leaves : ∀ t, LightDelivered s r t → P t) : Completes .framePeriod s P := by
  have done := playPeriod_done clock
  have lu := playPeriod_lu_off clock (by rw [report, only.au]; exact off)
  rw [report] at done lu
  exact completes_event (f := playPeriod) rfl out
    (leaves _ ⟨done.sq, done.wu, (settle_lu _).trans lu, done.report, done.beside only⟩)

/-- An entry whose delivery changes the record of one group alone, by `f` (R65, R66). -/
theorem OneDue.completes_group {s : State} {e : ReleaseEntry} {later : List ReleaseEntry} {g : Fin 64}
    {f : LightGroup → LightGroup} (one : OneDue s e later) (off : ∀ c : Fin 4, s.au.monitors[c].window = 0)
    (other : e.action ≠ .endShow) (plain : e.action.isMark = false)
    (delivery : entryDelivered e later s = (entryTaken e later s).setLu (s.lu.setGroup g (f s.lu.groups[g]))) :
    Completes .framePeriod s fun t =>
      t.sq = s.sq.released e later ∧
      (t.wu = s.wu ∧ t.gu = s.gu ∧ t.ls = s.ls ∧ GroundKept s t ∧ FetchKept s t ∧ PathKept s t) ∧ ReportKept s t ∧
      t.lu.latestPeak = s.lu.latestPeak ∧
      ∀ h : Fin 64, t.lu.groups[h] = if h = g then f s.lu.groups[h] else s.lu.groups[h] := by
  have only := entryDelivered_showOnly e later s
  have report := one.reported_plain other plain
  rw [delivery] at only report
  refine completes_light one.out one.clock off report only fun t done => ?_
  rw [done.lu]
  refine ⟨done.sq, ⟨done.wu, done.beside⟩, done.report, rfl, fun h => ?_⟩
  rw [lu_setLu, groups_setGroup]
  exact ite_congr rfl (fun same => by rw [same]) fun _ => rfl

/-- The hold at a mark, taken in RUNNING (R15). -/
theorem holdForHost_running {s : State} (running : s.sq.state = .running) : holdForHost s =
    s.setSq { s.sq with state := .held, holdHost := true, holdPending := .clear } := by
  rw [holdForHost, Sequencer.countWhenHeld, running, if_neg (by decide)]

/-- A released MARK sets the last mark at the position reached, and raises MARK if it notifies (R67). -/
theorem releaseMark_eq (number : Half) (notify : Bool) (s : State) : releaseMark number notify s =
    (s.setSq { s.sq with lastMark := some { number := number, position := s.sq.position } }).setRu
      (if notify then (raise .mark s).ru else s.ru) := by
  cases notify <;> rfl

/-- The sequencer of `x` with its last mark set at its position (R67). -/
def Sequencer.marked (x : Sequencer) (number : Half) : Sequencer :=
  { x with lastMark := some { number := number, position := x.position } }

/-- The report of a period that releases a MARK alone: the last mark at the position reached, MARK raised if it notifies, and
the show held for HOST when the hold-pending mode is at-mark (R15, R67). -/
theorem OneDue.reported_mark {s : State} {e : ReleaseEntry} {later : List ReleaseEntry} {number : Half} {notify : Bool}
    (one : OneDue s e later) (action : e.action = .mark number notify) :
    let marked := (s.sq.released e later).marked number
    Machine.reported s = ((dropFrame s).setSq
      (if s.sq.holdPending = .atMark then { marked with state := .held, holdHost := true, holdPending := .clear }
      else marked)).setRu (if notify then (raise .mark s).ru else s.ru) := by
  have delivery : entryDelivered e later s =
      ((dropFrame s).setSq ((s.sq.released e later).marked number)).setRu (if notify then (raise .mark s).ru else s.ru) := by
    rw [entryDelivered, action, deliver, releaseMark_eq]; rfl
  have held := holdForHost_running (s := entryDelivered e later s) (by rw [delivery]; exact one.running)
  have report := one.reported (by rw [action]; nofun)
  rw [held, delivery, action, Action.isMark, Bool.true_and] at report
  dsimp only
  by_cases atMark : s.sq.holdPending = .atMark
  · rw [decide_eq_true atMark, if_pos rfl] at report
    rw [if_pos atMark]; exact report
  · rw [decide_eq_false atMark, if_neg Bool.false_ne_true] at report
    rw [if_neg atMark]; exact report

/-- A frame period whose report is that of a released MARK, with the sequencer `x` (R15, R67). -/
theorem completes_mark {s : State} {x : Sequencer} {notify : Bool}
    (out : s.inReset = false) (clock : s.au.clock.isSome = true) (off : ∀ c : Fin 4, s.au.monitors[c].window = 0)
    (report : reported s =
      ((dropFrame s).setSq x).setRu (if notify then (raise .mark s).ru else s.ru)) :
    Completes .framePeriod s fun t =>
      (t.wu = s.wu ∧ t.gu = s.gu ∧ t.ls = s.ls ∧ GroundKept s t ∧ FetchKept s t ∧ PathKept s t) ∧ t.lu = s.lu ∧
      (if notify then ReportRaised .mark s t else ReportKept s t) ∧ t.sq = x := by
  have only : ShowOnly (dropFrame s)
      (((dropFrame s).setSq x).setRu (if notify then (raise .mark s).ru else s.ru)) :=
    ⟨rfl, rfl, rfl, rfl, rfl, rfl, rfl, rfl, rfl⟩
  refine completes_light out clock off report only fun t done => ⟨⟨done.wu, done.beside⟩, done.lu, ?_, done.sq⟩
  cases notify
  · exact done.report.of_eq rfl
  · exact done.report.raised rfl

end Sys2Proof.Machine

open Sys2Proof Sys2Proof.Machine

/-- Settles O43: the entry by its action, VALVE open, VALVE close of an open or a closed valve, and PUMP. -/
theorem waterEntryDelivered : Obligations.WaterEntryDelivered := by
  unfold Obligations.WaterEntryDelivered
  intro s e later out clock running limit frames fresh whole table due stop
  have one : OneDue s e later := ⟨out, clock, running, limit, frames, fresh, whole, table, due, stop⟩
  refine ⟨fun v action => ?_, fun v action open_ => ?_, fun v action closed => ?_, fun p speed action => ?_⟩
  all_goals
    have other : e.action ≠ .endShow := by rw [action]; nofun
    have plain : e.action.isMark = false := by rw [action]; rfl
  · have delivery : entryDelivered e later s = wantOpen v (entryTaken e later s) := by rw [entryDelivered, action]; rfl
    refine one.completes_water other plain delivery fun t done => ?_
    rw [done.wu]
    exact ⟨done.sq, wantOpen_images v (entryTaken e later s), rfl, rfl, done.kept⟩
  · have delivery : entryDelivered e later s = wantClose v (entryTaken e later s) := by rw [entryDelivered, action]; rfl
    rw [wantClose_frame] at delivery
    obtain ⟨commanded, output, -⟩ := wantClose_speeds v (entryTaken e later s)
    have images := wantClose_images (s := entryTaken e later s) open_ (hasBlocking_wantedClosed (entryTaken e later s) v)
    have wanted : ∀ w : Fin 192, (wantClose v (entryTaken e later s)).wu.wanted.getLsbD w =
        (s.wu.wanted.getLsbD w && decide (w ≠ v)) := fun w =>
      (wantClose_wanted v (entryTaken e later s) w).trans (by simp only [ne_eq, Fin.ext_iff]; rfl)
    refine one.completes_water other plain delivery fun t done => ?_
    rw [done.wu]
    exact ⟨done.sq, fun w => ⟨wanted w, images w⟩, commanded, output, done.kept⟩
  · have delivery : entryDelivered e later s = (entryTaken e later s).setWu s.wu := by
      rw [entryDelivered, action]; exact wantClose_closed (s := entryTaken e later s) closed
    exact one.completes_water other plain delivery fun t done => ⟨done.sq, done.wu, done.kept⟩
  · have delivery : entryDelivered e later s = commandPump p speed (entryTaken e later s) := by
      rw [entryDelivered, action]; rfl
    refine one.completes_water other plain delivery fun t done => ?_
    rw [done.wu]
    refine ⟨done.sq, fun q => ?_, rfl, done.kept⟩
    exact (getFin_set s.wu.commanded p q speed).trans (if_congr eq_comm rfl rfl)

/-- Settles O44: the entry by its action, LIGHT, FOLLOW and MARK. -/
theorem lightAndMarkEntriesDelivered : Obligations.LightAndMarkEntriesDelivered := by
  unfold Obligations.LightAndMarkEntriesDelivered
  intro s e later out clock running limit frames fresh whole off table due stop
  have one : OneDue s e later := ⟨out, clock, running, limit, frames, fresh, whole, table, due, stop⟩
  refine ⟨fun g colour fade action => ?_, fun g channel action => ?_, fun number notify action => ?_⟩
  · exact one.completes_group (f := fun r => r.fadeTo colour fade) off (by rw [action]; nofun) (by rw [action]; rfl)
      (by rw [entryDelivered, action]; rfl)
  · cases channel with
    | some c =>
      exact one.completes_group (f := fun r => r.bind c s.lu.latestPeak[c]) off (by rw [action]; nofun) (by rw [action]; rfl)
        (by rw [entryDelivered, action]; rfl)
    | none =>
      exact one.completes_group (f := LightGroup.unbind) off (by rw [action]; nofun) (by rw [action]; rfl)
        (by rw [entryDelivered, action]; rfl)
  · exact completes_mark out clock off (one.reported_mark action)

end

section
/-! Proofs: the level monitors and the mute set, channel by channel. -/

namespace Sys2Proof.Machine

/-! ## One channel after another -/

/-- Four operations in turn, each acting on the part of its own channel alone, act once on each channel's part. -/
theorem fourChannels {α : Type} {act : Fin 4 → State → State} {part : Fin 4 → State → α} {f : Fin 4 → α → α}
    (own : ∀ c s, part c (act c s) = f c (part c s)) (others : ∀ c d s, c ≠ d → part d (act c s) = part d s)
    (d : Fin 4) (s : State) : part d (act 3 (act 2 (act 1 (act 0 s)))) = f d (part d s) := by
  match d with
  | 0 => rw [others 3 0 _ (by decide), others 2 0 _ (by decide), others 1 0 _ (by decide), own]
  | 1 => rw [others 3 1 _ (by decide), others 2 1 _ (by decide), own, others 0 1 _ (by decide)]
  | 2 => rw [others 3 2 _ (by decide), own, others 1 2 _ (by decide), others 0 2 _ (by decide)]
  | 3 => rw [own, others 2 3 _ (by decide), others 1 3 _ (by decide), others 0 3 _ (by decide)]

theorem monitors_setMonitor (c d : Fin 4) (m : Monitor) (s : State) :
    (setMonitor c m s).au.monitors[d] = if c = d then m else s.au.monitors[d] := getFin_set _ c d m

@[simp] theorem lu_setMonitor (c : Fin 4) (m : Monitor) (s : State) : (setMonitor c m s).lu = s.lu := rfl

/-- A monitor put back as it stands. -/
theorem setMonitor_self (c : Fin 4) (s : State) : setMonitor c s.au.monitors[c] s = s := by
  simp only [setMonitor, Fin.getElem_fin, Vector.set_getElem_self]; rfl

@[simp] theorem monitors_takePeak (c : Fin 4) (peak : BitVec 15) (s : State) :
    (takePeak c peak s).au.monitors = s.au.monitors := rfl

theorem latestPeak_takePeak (c d : Fin 4) (peak : BitVec 15) (s : State) :
    (takePeak c peak s).lu.latestPeak[d] = if c = d then peak else s.lu.latestPeak[d] := getFin_set _ c d peak

/-- A peak taken reaches the groups that follow its channel (R143). -/
theorem groups_takePeak (c : Fin 4) (peak : BitVec 15) (s : State) (g : Fin 64) :
    (takePeak c peak s).lu.groups[g] = s.lu.groups[g].takePeak c peak := groups_mapGroups _ _ g

/-! ## A sample fed (R86, R87) -/

/-- A monitor at the end of an event: a complete window is ended (R87). -/
def Monitor.closed (m : Monitor) : Monitor := if m.complete then m.ended else m

/-- A monitor after its channel's sample has come: left when it is off or its channel muted (R86, R87). -/
def Monitor.fed (m : Monitor) (muted : Bool) (x : Half) : Monitor :=
  if m.isOn && !muted then (m.take x).closed else m

theorem monitors_endWindow (c d : Fin 4) (s : State) :
    (endWindow c s).au.monitors[d] = if c = d then s.au.monitors[c].closed else s.au.monitors[d] := by
  by_cases complete : s.au.monitors[c].complete = true
  · simp only [endWindow, complete, if_true, monitors_takePeak, monitors_setMonitor, Monitor.closed]
  · have left : endWindow c s = setMonitor c s.au.monitors[c] s := (if_neg complete).trans (setMonitor_self c s).symm
    simp only [left, monitors_setMonitor, Monitor.closed, if_neg complete]

theorem monitors_feedMonitor (samples : Vector Half 4) (c d : Fin 4) (s : State) :
    (feedMonitor samples c s).au.monitors[d] =
      if c = d then s.au.monitors[c].fed (isMuted s c) samples[c] else s.au.monitors[d] := by
  by_cases takes : (s.au.monitors[c].isOn && !isMuted s c) = true
  · have fed : feedMonitor samples c s = endWindow c (setMonitor c (s.au.monitors[c].take samples[c]) s) := if_pos takes
    simp only [fed, monitors_endWindow, monitors_setMonitor, if_true, Monitor.fed, if_pos takes]
    exact ite_congr rfl (fun _ => rfl) fun other => if_neg other
  · have left : feedMonitor samples c s = setMonitor c s.au.monitors[c] s := (if_neg takes).trans (setMonitor_self c s).symm
    simp only [left, monitors_setMonitor, Monitor.fed, if_neg takes]

theorem isMuted_feedMonitor (samples : Vector Half 4) (c d : Fin 4) (s : State) :
    isMuted (feedMonitor samples c s) d = isMuted s d := by
  rw [isMuted, (feedMonitor_monitorsOnly samples c s).au]; rfl

/-- Each monitor is fed its own channel's sample. -/
theorem monitors_feedMonitors (samples : Vector Half 4) (s : State) (c : Fin 4) :
    (feedMonitors samples s).au.monitors[c] = s.au.monitors[c].fed (isMuted s c) samples[c] := by
  have both := fourChannels (act := feedMonitor samples) (part := fun d t => (t.au.monitors[d], isMuted t d))
    (f := fun d p => (p.1.fed p.2 samples[d], p.2))
    (fun d t => by simp only [monitors_feedMonitor, isMuted_feedMonitor, if_true])
    (fun c d t other => by simp only [monitors_feedMonitor, isMuted_feedMonitor, if_neg other]) c s
  simp only [Prod.mk.injEq] at both
  simp only [feedMonitors, both.1]

/-- The rules R86 and R87 for a monitor whose frames counted stand below its window length. -/
theorem Monitor.fed_eq {m : Monitor} (sound : windowSound m) (muted : Bool) (x : Half) :
    let peak := if m.peak.toNat < (magnitude x).toNat then magnitude x else m.peak
    let count := if m.threshold.toNat ≤ (magnitude x).toNat then m.count + 1 else m.count
    m.fed muted x =
      if m.window = 0 ∨ muted = true then m
      else if m.counted + 1 = m.window then
        { m with counted := 0, peak := 0, count := 0, storedPeak := peak, storedCount := count }
      else { m with counted := m.counted + 1, peak := peak, count := count } := by
  have takes : (m.isOn && !muted) = true ↔ ¬(m.window = 0 ∨ muted = true) := by
    rw [not_or, Bool.and_eq_true, Monitor.isOn, decide_eq_true_iff, Bool.not_eq_true', Bool.not_eq_true]
  by_cases left : m.window = 0 ∨ muted = true
  · exact (if_neg fun h => takes.mp h left).trans (if_pos left).symm
  · have on : m.window ≠ 0 := (not_or.mp left).1
    rw [windowSound, if_neg on] at sound
    have ends : (m.take x).complete = true ↔ m.counted + 1 = m.window := by
      rw [Monitor.complete, Bool.and_eq_true, Monitor.isOn, decide_eq_true_iff, decide_eq_true_iff]
      exact (and_iff_right on).trans (show m.window ≤ m.counted + 1 ↔ _ by bv_omega)
    rw [Monitor.fed, if_pos (takes.mpr left), Monitor.closed]
    exact (ite_congr (propext ends) (fun _ => rfl) fun _ => rfl).trans (if_neg left).symm

/-- The peak magnitude of a sample (R85). -/
theorem toNat_magnitude (x : Half) :
    (magnitude x).toNat = if x.toInt = -32768 then 32767 else x.toInt.natAbs := by
  have low := BitVec.le_toInt x
  have high := BitVec.toInt_lt (x := x)
  have bounded : min Config.magnitudeMax x.toInt.natAbs < 2 ^ 15 := by simp only [Config.magnitudeMax]; omega
  rw [magnitude, BitVec.toNat_ofNat, Nat.mod_eq_of_lt bounded, Config.magnitudeMax]
  split <;> omega

/-! ## The end of a window by its own row (R87, R143) -/

/-- A complete window's end hands its peak to the light unit. -/
theorem endWindow_complete {c : Fin 4} {s : State} (h : s.au.monitors[c].complete = true) :
    endWindow c s = takePeak c s.au.monitors[c].peak (setMonitor c s.au.monitors[c].ended s) := if_pos h

/-- An incomplete window does not end. -/
theorem endWindow_incomplete {c : Fin 4} {s : State} (h : s.au.monitors[c].complete = false) : endWindow c s = s :=
  if_neg (by rw [h]; exact Bool.false_ne_true)

/-- Under R71 no window stands complete between events. -/
theorem complete_of_windowSound {m : Monitor} (sound : windowSound m) : m.complete = false := by
  by_cases off : m.window = 0
  · simp [Monitor.complete, Monitor.isOn, off]
  · rw [windowSound, if_neg off] at sound
    have below : ¬ m.window ≤ m.counted := by bv_omega
    simp [Monitor.complete, below]

/-! ## MUTE (R81, R83) -/

/-- A channel is in the new mute set and not in the old one (R83). -/
def newlyMuted (old new : BitVec 4) (c : Fin 4) : Bool := new.getLsbD c && !old.getLsbD c

/-- A monitor after its channel has gone from one mute set to another (R83). -/
def Monitor.remuted (old new : BitVec 4) (c : Fin 4) (m : Monitor) : Monitor :=
  if newlyMuted old new c then m.muted else if newlyMuted new old c then m.fresh else m

theorem muteChannel_cases (old new : BitVec 4) (c : Fin 4) (s : State) :
    muteChannel old new c s =
      if newlyMuted old new c then takePeak c 0 (setMonitor c (s.au.monitors[c].remuted old new c) s)
      else setMonitor c (s.au.monitors[c].remuted old new c) s := by
  unfold muteChannel Monitor.remuted newlyMuted
  split
  · rfl
  · split
    · rfl
    · exact (setMonitor_self c s).symm

theorem monitors_muteChannel (old new : BitVec 4) (c d : Fin 4) (s : State) :
    (muteChannel old new c s).au.monitors[d] =
      if c = d then s.au.monitors[c].remuted old new c else s.au.monitors[d] := by
  by_cases newly : newlyMuted old new c = true
  · simp only [muteChannel_cases, if_pos newly, monitors_takePeak, monitors_setMonitor]
  · simp only [muteChannel_cases, if_neg newly, monitors_setMonitor]

theorem latestPeak_muteChannel (old new : BitVec 4) (c d : Fin 4) (s : State) :
    (muteChannel old new c s).lu.latestPeak[d] =
      if c = d then (if newlyMuted old new c then 0 else s.lu.latestPeak[c]) else s.lu.latestPeak[d] := by
  by_cases newly : newlyMuted old new c = true
  · simp only [muteChannel_cases, if_pos newly, latestPeak_takePeak, lu_setMonitor]
  · simp only [muteChannel_cases, if_neg newly, lu_setMonitor]
    split
    case isTrue same => simp only [same]
    case isFalse => rfl

/-- A light group after one channel has gone from one mute set to another: scaled to 0 if it follows the channel and the
channel is newly muted (R83, R143). -/
def LightGroup.remuted (old new : BitVec 4) (c : Fin 4) (g : LightGroup) : LightGroup :=
  if newlyMuted old new c then g.takePeak c 0 else g

theorem groups_muteChannel (old new : BitVec 4) (c : Fin 4) (s : State) (g : Fin 64) :
    (muteChannel old new c s).lu.groups[g] = s.lu.groups[g].remuted old new c := by
  by_cases newly : newlyMuted old new c = true
  · simp only [muteChannel_cases, if_pos newly, groups_takePeak, lu_setMonitor, LightGroup.remuted]
  · simp only [muteChannel_cases, if_neg newly, lu_setMonitor, LightGroup.remuted]

/-- A group follows one channel at most, and so only that channel's change reaches it. -/
theorem LightGroup.remuted_all (old new : BitVec 4) (g : LightGroup) :
    (((g.remuted old new 0).remuted old new 1).remuted old new 2).remuted old new 3 = { g with
      scale := match g.follow with
        | some c => if newlyMuted old new c then 0 else g.scale
        | none => g.scale } := by
  have other : ∀ {c : Fin 4} {r : LightGroup}, r.follow ≠ some c → r.remuted old new c = r := fun h => by
    rw [LightGroup.remuted, LightGroup.takePeak, if_neg h, ite_self]
  have own : ∀ {c : Fin 4} {r : LightGroup}, r.follow = some c →
      r.remuted old new c = { r with scale := if newlyMuted old new c then 0 else r.scale } := fun h => by
    rw [LightGroup.remuted, LightGroup.takePeak, if_pos h]; split <;> rfl
  obtain ⟨current, target, fade, follow, scale⟩ := g
  match follow with
  | none => simp [other]
  | some 0 => simp [own, other]
  | some 1 => simp [own, other]
  | some 2 => simp [own, other]
  | some 3 => simp [own, other]

/-- Beside groups and latest peaks the light unit is left. -/
theorem lu_muteChannel (old new : BitVec 4) (c : Fin 4) (s : State) : (muteChannel old new c s).lu =
    { s.lu with groups := (muteChannel old new c s).lu.groups, latestPeak := (muteChannel old new c s).lu.latestPeak } := by
  rw [muteChannel_cases]; split <;> rfl

/-- The state with the mute set replaced. -/
def setMuteSet (new : BitVec 4) (s : State) : State := s.setAu { s.au with muteSet := new }

theorem takeMute_eq (new : BitVec 4) (s : State) : takeMute new s =
    muteChannel s.au.muteSet new 3 (muteChannel s.au.muteSet new 2 (muteChannel s.au.muteSet new 1
      (muteChannel s.au.muteSet new 0 (setMuteSet new s)))) := rfl

theorem takeMute_monitorsOnly (new : BitVec 4) (s : State) : MonitorsOnly (setMuteSet new s) (takeMute new s) :=
  (((muteChannel_monitorsOnly _ new 0 _).trans (muteChannel_monitorsOnly _ new 1 _)).trans
    (muteChannel_monitorsOnly _ new 2 _)).trans (muteChannel_monitorsOnly _ new 3 _)

theorem au_takeMute (new : BitVec 4) (s : State) :
    (takeMute new s).au = { s.au with muteSet := new, monitors := (takeMute new s).au.monitors } :=
  (takeMute_monitorsOnly new s).au

theorem lu_takeMute (new : BitVec 4) (s : State) : (takeMute new s).lu =
    { s.lu with groups := (takeMute new s).lu.groups, latestPeak := (takeMute new s).lu.latestPeak } := by
  rw [takeMute_eq, lu_muteChannel, lu_muteChannel _ _ 2, lu_muteChannel _ _ 1, lu_muteChannel _ _ 0]; rfl

/-- Each channel's monitor and latest peak after an accepted MUTE (R83, R143). -/
theorem channel_takeMute (new : BitVec 4) (s : State) (c : Fin 4) :
    (takeMute new s).au.monitors[c] = s.au.monitors[c].remuted s.au.muteSet new c ∧
    (takeMute new s).lu.latestPeak[c] = if newlyMuted s.au.muteSet new c then 0 else s.lu.latestPeak[c] := by
  have both := fourChannels (act := muteChannel s.au.muteSet new)
    (part := fun d t => (t.au.monitors[d], t.lu.latestPeak[d]))
    (f := fun d p => (p.1.remuted s.au.muteSet new d, if newlyMuted s.au.muteSet new d then 0 else p.2))
    (fun d t => by simp only [monitors_muteChannel, latestPeak_muteChannel, if_true])
    (fun c d t other => by simp only [monitors_muteChannel, latestPeak_muteChannel, if_neg other]) c (setMuteSet new s)
  exact Prod.mk.inj both

/-- Each light group after an accepted MUTE: scaled to 0 if it follows a newly muted channel (R83, R143). -/
theorem groups_takeMute (new : BitVec 4) (s : State) (g : Fin 64) :
    (takeMute new s).lu.groups[g] = { s.lu.groups[g] with
      scale := match s.lu.groups[g].follow with
        | some c => if newlyMuted s.au.muteSet new c then 0 else s.lu.groups[g].scale
        | none => s.lu.groups[g].scale } := by
  simp only [takeMute_eq, groups_muteChannel]
  exact LightGroup.remuted_all ..

/-! ## Arguments -/

/-- The low bits of a register, by number and by place. -/
theorem ofNat_toNat_eq_extract {w n : Nat} (x : BitVec w) (h : n ≤ w) : BitVec.ofNat n x.toNat = x.extractLsb' 0 n := by
  rw [BitVec.ofNat_toNat, BitVec.setWidth_eq_extractLsb' h]

theorem getLsbD_ofNat_arg (x : Word) (c : Fin 4) : (BitVec.ofNat 4 x.toNat).getLsbD c = x.getLsbD c := by
  rw [BitVec.ofNat_toNat, BitVec.getLsbD_setWidth, decide_eq_true c.isLt, Bool.true_and]

end Sys2Proof.Machine

open Sys2Proof Sys2Proof.Machine

/-- Settles O24: MONITOR by its three arguments. -/
theorem monitorBeginsWindow : Obligations.MonitorBeginsWindow := by
  unfold Obligations.MonitorBeginsWindow
  refine fun s burst path => ⟨fun c channel window threshold => ?_, fun range => ?_⟩
  · have admits : s.ru.arg0.toNat ≤ 3 ∧ s.ru.arg1.toNat ≤ 65535 ∧ s.ru.arg2.toNat ≤ Config.magnitudeMax :=
      ⟨by omega, window, threshold⟩
    have named : Fin.ofNat 4 s.ru.arg0.toNat = c := by rw [channel]; exact Fin.ofNat_val_eq_self c
    refine completes_accepted (act := takeMonitor) rfl path (by rw [monitorOutcome, decide_eq_true admits]; rfl) rfl rfl
      fun t done => ⟨fun d => ?_, ?_, done.sq, ⟨done.wu, done.lu, done.gu, done.ls⟩, done.ground, done.fetch,
        done.posted, done.recorded⟩
    · simp only [done.au, takeMonitor, named, monitors_setMonitor, ofNat_toNat_eq_extract _ (show 16 ≤ 32 by decide),
        ofNat_toNat_eq_extract _ (show 15 ≤ 32 by decide)]
      by_cases same : c = d
      · subst same; rw [if_pos rfl, if_pos rfl]; rfl
      · rw [if_neg same, if_neg (Ne.symm same)]
    · rw [done.au]; rfl
  · have fails : ¬(s.ru.arg0.toNat ≤ 3 ∧ s.ru.arg1.toNat ≤ 65535 ∧ s.ru.arg2.toNat ≤ Config.magnitudeMax) := by
      simp only [Config.magnitudeMax]; omega
    exact completes_refused (outcome := monitorOutcome) rfl path (by rw [monitorOutcome, decide_eq_false fails]; rfl)
      (by decide)

/-- Settles O23: MUTE by ARG0, and each channel by whether it is newly muted, newly unmuted or neither. -/
theorem muteReplacesSet : Obligations.MuteReplacesSet := by
  unfold Obligations.MuteReplacesSet
  refine fun s burst path => ⟨fun range => ?_, fun range => ?_⟩
  · have only := takeMute_monitorsOnly (BitVec.ofNat 4 s.ru.arg0.toNat) s
    refine completes_accepted (act := fun x => takeMute (BitVec.ofNat 4 x.ru.arg0.toNat) x) rfl path
      (by rw [muteOutcome, decide_eq_true range]; rfl) only.pu only.ru fun t done => ?_
    have au := done.au
    have lu := done.lu
    rw [au, lu]
    refine ⟨?_, fun c => ?_, fun g => ?_, ?_, ?_, done.sq.trans only.sq, done.wu.trans only.wu, done.gu.trans only.gu,
      done.ls.trans only.ls, done.ground.of_eq only.inReset only.mem, done.fetch.of_eq only.fu, done.posted, done.recorded⟩
    · rw [au_takeMute, ofNat_toNat_eq_extract _ (by decide)]
    · obtain ⟨monitor, peak⟩ := channel_takeMute (BitVec.ofNat 4 s.ru.arg0.toNat) s c
      rw [monitor, peak, Monitor.remuted, newlyMuted, newlyMuted, getLsbD_ofNat_arg]
      cases s.ru.arg0.getLsbD c <;> cases s.au.muteSet.getLsbD c <;> exact ⟨rfl, rfl⟩
    · rw [groups_takeMute]
      refine ⟨rfl, ?_⟩
      cases s.lu.groups[g].follow with
      | none => rfl
      | some c =>
        simp only [newlyMuted, getLsbD_ofNat_arg, Bool.and_eq_true, Bool.not_eq_true']
    · rw [au_takeMute]
    · exact lu_takeMute ..
  · exact completes_refused (outcome := muteOutcome) rfl path
      (by rw [muteOutcome, decide_eq_false (by omega)]; rfl) (by decide)

end

section
/-! Proofs: the sample a frame period emits, the serial audio lines, and the monitors that take it. -/

namespace Sys2Proof.Machine

/-! ## What the report of a frame period leaves of the audio unit -/

/-- An advance leaves the audio unit (R7, R8). -/
theorem au_advance (s : State) : (advance s).au = s.au := by
  by_cases limit : s.sq.position = 0xFFFFFFFF
  · rw [advance_limit limit]; exact (takeFault_showOnly _ s).au
  · rw [advance_moves limit]
    exact (afterReleases_headOnly _).au.trans (releaseDue_showOnly _ _).au

/-- The report of a period counts underflows, and nothing else in the audio unit (R80). -/
theorem au_takeReport (o : PeriodOutcome) (s : State) :
    (takeReport o s).au = { s.au with underflowCount := (takeReport o s).au.underflowCount } := by
  unfold takeReport
  split
  case h_1 | h_2 => rw [au_advance]
  case h_3 | h_4 => rw [au_advance]; rfl
  case h_5 => rfl
  case h_6 => rw [countStarved, (starveLimitTest_showOnly _).au]; rfl
  case h_7 => rfl

theorem au_takeFrame (s : State) : (takeFrame s).au = { s.au with fifo := (takeFrame s).au.fifo } := by
  unfold takeFrame; split <;> rfl

/-- Mute set, monitors and lines are as before when the frame of a period is emitted (R73). -/
theorem au_reported (s : State) : (reported s).au =
    { s.au with fifo := (reported s).au.fifo, underflowCount := (reported s).au.underflowCount } := by
  rw [reported, au_takeReport, au_takeFrame]

theorem isMuted_reported (s : State) (c : Fin 4) : isMuted (reported s) c = isMuted s c := by
  rw [isMuted, au_reported]; rfl

theorem emitted_reported (s : State) (f : Frame) : emitted (reported s) f = emitted s f :=
  tabulate_congr fun c => by rw [isMuted_reported]

/-- After a frame period the lines shift out the frame emitted (R73, R89). -/
theorem lines_playPeriod {s : State} (clock : s.au.clock.isSome = true) :
    (playPeriod s).au.lines = .shifting (emitted s (periodFrame s)) (decide (s.au.lines = .waiting)) := by
  rw [playPeriod_runs clock, (feedMonitors_monitorsOnly _ _).au, emitted_reported]
  simp only [shiftOut, au_setAu]
  rw [au_reported]

/-- After a frame period each monitor has been fed the sample emitted (R73, R86, R87). -/
theorem monitors_playPeriod {s : State} (clock : s.au.clock.isSome = true) (c : Fin 4) :
    (playPeriod s).au.monitors[c] = s.au.monitors[c].fed (isMuted s c) (emitted s (periodFrame s))[c] := by
  have monitors : (reported s).au.monitors = s.au.monitors := by rw [au_reported]
  have muted : isMuted (shiftOut (emitted s (periodFrame s)) (reported s)) c = isMuted s c := isMuted_reported s c
  have shifted : (shiftOut (emitted s (periodFrame s)) (reported s)).au.monitors = s.au.monitors := monitors
  simp only [playPeriod_runs clock, emitted_reported, monitors_feedMonitors, muted, shifted]

/-! ## The frame of a period (R73, R76, R77, R78) -/

theorem playOutcome_taken (s : State) : playOutcome s = .frameTaken ↔ s.au.fifo ≠ [] := by
  unfold playOutcome
  cases s.au.fifo <;> cases musicOver s <;> simp

/-- A frame is taken in RUNNING, and in STARVED when the resume test passes, if the FIFO holds one (R76, R77). -/
theorem periodOutcome_taken (s : State) : periodOutcome s = .frameTaken ↔
    (s.sq.state = .running ∨ (s.sq.state = .starved ∧
      (64 ≤ s.au.fifo.length ∨ (s.fu.final = true ∧ s.fu.audioFetch = s.fu.audioMark)))) ∧ s.au.fifo ≠ [] := by
  rw [← resumeTest_iff]
  unfold periodOutcome
  cases state : s.sq.state
  case running => simp [playOutcome_taken]
  case starved => cases resumeTest s <;> simp [playOutcome_taken]
  all_goals simp

/-- A period that takes no frame emits a silent one (R73). -/
theorem periodFrame_eq (s : State) :
    periodFrame s = if periodOutcome s = .frameTaken then s.au.fifo.headD Frame.silent else Frame.silent := by
  unfold periodFrame
  cases periodOutcome s <;> rfl

theorem Frame.sample_silent (c : Fin 4) : Frame.silent.sample c = 0 := by
  unfold Frame.sample; split <;> rfl

/-- The sample of a channel in a frame period: the head frame's when a frame is taken and the channel is unmuted, and 0
otherwise (R73, R82). -/
theorem emitted_periodFrame {s : State} {taken : Prop} [Decidable taken] (h : periodOutcome s = .frameTaken ↔ taken)
    (c : Fin 4) : (emitted s (periodFrame s))[c] =
      if taken ∧ isMuted s c = false then (s.au.fifo.headD Frame.silent).sample c else 0 := by
  rw [emitted, getFin_tabulate, periodFrame_eq]
  by_cases muted : isMuted s c = true
  · rw [if_pos muted, if_neg (by simp [muted])]
  · by_cases takes : taken
    · rw [if_neg muted, if_pos (h.mpr takes), if_pos ⟨takes, by simpa using muted⟩]
    · rw [if_neg muted, if_neg (fun o => takes (h.mp o)), if_neg fun both => takes both.1, Frame.sample_silent]

/-! ## The lines bit by bit (R89) -/

/-- The bits of a sample, most significant first. -/
theorem sampleBits_eq (x : Half) : sampleBits x = (List.range 16).map fun k => x.getLsbD (15 - k) := by
  have halves : sampleBits x = byteBits (x.extractLsb' 8 8) ++ byteBits (x.extractLsb' 0 8) := by
    simp [sampleBits, bitsOfBytes, halfBytes]
  rw [halves, show List.range 16 = List.range 8 ++ (List.range 8).map (8 + ·) from rfl, List.map_append, List.map_map]
  refine congrArg₂ _ (List.map_congr_left fun k hk => ?_) (List.map_congr_left fun k hk => ?_)
  all_goals
    rw [List.mem_range] at hk
    rw [BitVec.getLsbD_extractLsb', decide_eq_true (by omega), Bool.true_and]
  · exact congrArg _ (by omega)
  · exact congrArg _ (show 0 + (7 - k) = 15 - (8 + k) by omega)

/-- The two samples of a data line, one bit for each ABCK period: the first for 16 periods, the second for the next 16. -/
theorem getD_sampleBits_append (x y : Half) {n : Nat} (h : n < 32) :
    (sampleBits x ++ sampleBits y).getD n false = (if n / 16 = 0 then x else y).getLsbD (15 - n % 16) := by
  have length : ∀ z : Half, (sampleBits z).length = 16 := fun z => by
    rw [sampleBits_eq, List.length_map, List.length_range]
  have bit : ∀ (z : Half) (k : Nat), k < 16 → (sampleBits z).getD k false = z.getLsbD (15 - k) := fun z k hk => by
    simp [sampleBits_eq, hk]
  by_cases first : n < 16
  · rw [List.getD_append _ _ _ _ (by rw [length]; exact first), bit x n first, if_pos (by omega), Nat.mod_eq_of_lt first]
  · rw [List.getD_append_right _ _ _ _ (by rw [length]; omega), length, bit y _ (by omega), if_neg (by omega),
      show n % 16 = n - 16 by omega]

/-- While a frame is shifted out ABCK is low and then high in each period, and AFCK low for the first half of them and high
for the second. -/
theorem levels_clocks (samples : Vector Half 4) (first : Bool) (half : Fin 64) :
    ((AudioLines.shifting samples first).levels half).abck = decide (half.val % 2 = 1) ∧
    ((AudioLines.shifting samples first).levels half).afck = decide (32 ≤ half.val) := by
  refine ⟨rfl, ?_⟩
  have halves : ∀ h : Fin 64, afckLevels.getD (h / 2) false = decide (32 ≤ h.val) := by decide
  exact halves half

/-- In the half of the period with AFCK at its channel's level a data line carries the channel's sample. -/
theorem levels_data (samples : Vector Half 4) (first : Bool) (c : Fin 4) (half : Fin 64) (turn : half.val / 32 = c.val % 2) :
    (if c < 2 then ((AudioLines.shifting samples first).levels half).ad0
      else ((AudioLines.shifting samples first).levels half).ad1) = samples[c].getLsbD (15 - half.val / 2 % 16) := by
  have within : half.val / 2 < 32 := by omega
  have ad0 := getD_sampleBits_append samples[0] samples[1] within
  have ad1 := getD_sampleBits_append samples[2] samples[3] within
  match c, turn with
  | 0, turn => exact ad0.trans (by rw [if_pos (by simp at turn; omega)]; rfl)
  | 1, turn => exact ad0.trans (by rw [if_neg (by simp at turn; omega)]; rfl)
  | 2, turn => exact ad1.trans (by rw [if_pos (by simp at turn; omega)]; rfl)
  | 3, turn => exact ad1.trans (by rw [if_neg (by simp at turn; omega)]; rfl)

/-- A frame begins with a falling edge exactly when AFCK stood high at the end of the period before it (R89, R90). -/
theorem beginsWithFallingEdge_iff {before : AudioLines} (samples : Vector Half 4) (running : before ≠ .heldLow) :
    (AudioLines.shifting samples (decide (before = .waiting))).beginsWithFallingEdge = (before.levels 63).afck := by
  cases before with
  | heldLow => exact absurd rfl running
  | waiting => rfl
  | shifting earlier first => exact (levels_clocks earlier first 63).2.symm

end Sys2Proof.Machine

open Sys2Proof Sys2Proof.Machine

/-- Settles O46: the magnitude, the frame period by channel, and WINDOW_END by whether its window is complete. -/
theorem monitorsTakeEmittedSamples : Obligations.MonitorsTakeEmittedSamples := by
  unfold Obligations.MonitorsTakeEmittedSamples
  refine ⟨toNat_magnitude, fun s out clock sound => ?_, fun s c out on full => ?_, fun s c out sound => ?_⟩
  · refine completes_event (f := playPeriod) rfl out fun c => ?_
    dsimp only
    rw [← emitted_periodFrame (periodOutcome_taken s) c]
    simp only [settle_au, lines_playPeriod clock, monitors_playPeriod clock]
    exact ⟨⟨_, _, rfl, rfl⟩,
      fun half => ⟨(levels_clocks _ _ half).1, (levels_clocks _ _ half).2, levels_data _ _ c half⟩,
      beginsWithFallingEdge_iff _, Monitor.fed_eq (sound c).1 _ _⟩
  · have complete : s.au.monitors[c].complete = true := by
      rw [Monitor.complete, Monitor.isOn, decide_eq_true on, decide_eq_true full]; rfl
    refine completes_event (f := endWindow c) rfl out ?_
    rw [endWindow_complete complete]
    refine ⟨?_, ?_, fun g => ?_, rfl, rfl, rfl, rfl, groundKept_of rfl rfl, rfl, rfl⟩
    · simp only [settle_au, monitors_takePeak, monitors_setMonitor, if_true]; rfl
    · simp only [settle_lu, latestPeak_takePeak, if_true]
    · simp only [settle_lu, groups_takePeak]; rfl
  · refine completes_event (f := endWindow c) rfl out ?_
    rw [endWindow_incomplete (complete_of_windowSound (sound c).1)]
    exact nothingDone_settle s

end

section
/-! Proofs: the rules of the water. `WaterGoes` is what an operation does that is neither a field period nor a reset: it
keeps the rules, moves no output, and leaves a deferred valve deferred unless it opens that valve. It composes. -/

namespace Sys2Proof.Machine

/-! ## The images valve by valve -/

/-- R99 valve by valve: the deferred valves are those applied open and wanted closed, and a valve wanted open is applied
open. -/
theorem imagesSound_iff (s : State) : ImagesSound s ↔ ∀ v < 192,
    s.wu.deferred.getLsbD v = (s.wu.applied.getLsbD v && !s.wu.wanted.getLsbD v) ∧
    (s.wu.wanted.getLsbD v = true → s.wu.applied.getLsbD v = true) := by
  constructor
  · rintro ⟨deferred, open_⟩ v h
    have bit := congrArg (fun x => x.getLsbD v) open_
    rw [deferred]
    simpa [BitVec.getLsbD_and, BitVec.getLsbD_not, h, -BitVec.getLsbD_eq_getElem] using bit
  · intro h
    constructor
    · exact BitVec.eq_of_getLsbD_eq fun v lt => by simp [(h v lt).1, lt, -BitVec.getLsbD_eq_getElem]
    · exact BitVec.eq_of_getLsbD_eq fun v lt => by simpa [lt, -BitVec.getLsbD_eq_getElem] using (h v lt).2

/-- A header counts no more valves in an image than in one that has all its valves on that header open. -/
theorem headerCount_le (t : LimitTable) (p : Nat) {x y : BitVec 192}
    (h : ∀ v < 192, t.onHeader p v = true → x.getLsbD v = true → y.getLsbD v = true) :
    headerCount t p x ≤ headerCount t p y := by
  refine List.countP_mono_left fun v mem => ?_
  simp only [Bool.and_eq_true]
  exact fun k => ⟨h v (List.mem_range.mp mem) k.2 k.1, k.2⟩

/-- A pump whose header is not short of wanted-open valves has its min-open count applied open (R99, R102). -/
theorem minOpen_le_applied {s : State} {p : Nat} (images : ImagesSound s) (enough : ¬shortHeader s p = true) :
    s.ls.table.minOpen p ≤ headerCount s.ls.table p s.wu.applied := by
  rw [shortHeader_iff, Nat.not_lt] at enough
  exact enough.trans (headerCount_mono _ _ fun v lt => ((imagesSound_iff s).mp images v lt).2)

/-! ## The relation -/

/-- Valve v waits for its close to go through: deferred, applied open and wanted closed (R99). -/
structure CloseWaits (v : Fin 192) (x : WaterUnit) : Prop where
  deferred : x.deferred.getLsbD v = true
  applied : x.applied.getLsbD v = true
  wanted : x.wanted.getLsbD v = false

/-- The rules of the water pass on, no output moves, and a waiting close goes on waiting but for the valves in `opens`. -/
structure WaterGoes (opens : Fin 192 → Prop) (s t : State) : Prop where
  sound : WaterSound s → WaterSound t
  output : t.wu.output = s.wu.output
  waits : ∀ v, ¬opens v → CloseWaits v s.wu → CloseWaits v t.wu

/-- The water unit, what it takes of the limit store, and whether the show is live or at rest are the same. -/
structure WaterAside (s t : State) : Prop where
  wu : t.wu = s.wu
  table : t.ls.table = s.ls.table
  tableState : t.ls.tableState = s.ls.tableState
  operation : t.ls.operation = s.ls.operation
  live : t.sq.state.live = s.sq.state.live
  resting : t.sq.state.resting = s.sq.state.resting

section
variable {opens : Fin 192 → Prop}

theorem WaterGoes.refl (s : State) : WaterGoes opens s s := ⟨id, rfl, fun _ _ => id⟩

theorem WaterGoes.trans {s t u : State} (h : WaterGoes opens s t) (k : WaterGoes opens t u) : WaterGoes opens s u :=
  ⟨k.sound ∘ h.sound, k.output.trans h.output, fun v closed => k.waits v closed ∘ h.waits v closed⟩

/-- One of two operations goes on with the water when both do. -/
theorem WaterGoes.ite {c : Prop} [Decidable c] {s t u : State} (h : WaterGoes opens s t) (k : WaterGoes opens s u) :
    WaterGoes opens s (if c then t else u) := by split; exacts [h, k]

/-- An operation that leaves the water unit does what the rules allow when it keeps them. -/
theorem WaterGoes.ofWu {s t : State} (wu : t.wu = s.wu) (sound : WaterSound s → WaterSound t) : WaterGoes opens s t :=
  ⟨sound, by rw [wu], fun _ _ => by rw [wu]; exact id⟩

/-- The rules of the water look at nothing that an operation beside the water changes. -/
theorem WaterAside.goes {s t : State} (h : WaterAside s t) : WaterGoes opens s t :=
  .ofWu h.wu fun k => {
    images := by rw [ImagesSound, h.wu]; exact k.images
    asked := by rw [NothingAsked, h.live, h.wu]; exact k.asked
    rest := by rw [RestSound, h.resting, h.wu]; exact k.rest
    limits := by rw [LimitsSound, h.resting, h.operation, h.tableState]; exact k.limits
    headers := fun p => by rw [aboveIdle_iff, h.table, h.wu, ← aboveIdle_iff]; exact k.headers p
    speeds := by rw [SpeedsSound, h.wu, h.table]; exact k.speeds }

/-- An operation beside water unit, limit store and show state. -/
theorem waterGoes_beside {s t : State} (wu : t.wu = s.wu) (ls : t.ls = s.ls) (state : t.sq.state = s.sq.state) :
    WaterGoes opens s t :=
  WaterAside.goes ⟨wu, by rw [ls], by rw [ls], by rw [ls], by rw [state], by rw [state]⟩

/-- A move from one live state to another. -/
theorem waterGoes_live {s t : State} (wu : t.wu = s.wu) (ls : t.ls = s.ls) (before : s.sq.state.live = true)
    (after : t.sq.state.live = true) : WaterGoes opens s t :=
  WaterAside.goes ⟨wu, by rw [ls], by rw [ls], by rw [ls], after.trans before.symm, by
    rw [ShowState.not_resting_of_live before, ShowState.not_resting_of_live after]⟩

/-- A show at rest is not live. -/
theorem ShowState.not_live_of_resting {x : ShowState} (h : x.resting = true) : x.live = false :=
  Bool.eq_false_iff.mpr fun live => by rw [not_resting_of_live live] at h; cases h

/-- Water at rest with nothing asked of it keeps the rules, whatever the limit table holds (R93, R112). -/
theorem waterSound_resting {s : State} (rest : s.sq.state.resting = true) (images : ImagesSound s)
    (asked : s.wu.wanted = 0 ∧ ∀ p : Fin 16, s.wu.commanded[p] = 0)
    (still : s.wu.applied = 0 ∧ ∀ p : Fin 16, s.wu.output[p] = 0) : WaterSound s where
  images := images
  asked _ := asked
  rest _ := still
  limits := ⟨fun _ => rest, fun moving => by rw [rest] at moving; cases moving⟩
  headers p above := by rw [aboveIdle_iff, still.2 p] at above; exact absurd above (Nat.not_lt_zero _)
  speeds p := by rw [still.2 p]; exact Nat.zero_le _

/-- A move from one state of rest to another, whatever becomes of the limit table (R93). -/
theorem waterGoes_resting {s t : State} (wu : t.wu = s.wu) (before : s.sq.state.resting = true)
    (after : t.sq.state.resting = true) : WaterGoes opens s t :=
  .ofWu wu fun k => waterSound_resting after (by rw [ImagesSound, wu]; exact k.images)
    (by rw [wu]; exact k.asked (ShowState.not_live_of_resting before)) (by rw [wu]; exact k.rest before)

theorem setFu_waterGoes (s : State) (x : FetchUnit) : WaterGoes opens s (s.setFu x) := waterGoes_beside rfl rfl rfl
theorem setAu_waterGoes (s : State) (x : AudioUnit) : WaterGoes opens s (s.setAu x) := waterGoes_beside rfl rfl rfl
theorem setGu_waterGoes (s : State) (x : GuardUnit) : WaterGoes opens s (s.setGu x) := waterGoes_beside rfl rfl rfl
theorem setPu_waterGoes (s : State) (x : PathUnit) : WaterGoes opens s (s.setPu x) := waterGoes_beside rfl rfl rfl
theorem raise_waterGoes (c : Cause) (s : State) : WaterGoes opens s (raise c s) := waterGoes_beside rfl rfl rfl

/-! ## Opens, closes and commanded speeds -/

/-- Opens and speeds asked by a live show keep the rules, when the images stay sound and no valve is applied closed. -/
theorem waterSound_asked {s : State} {x : WaterUnit} (live : s.sq.state.live = true) (images : ImagesSound (s.setWu x))
    (output : x.output = s.wu.output) (opened : ∀ v, s.wu.applied.getLsbD v = true → x.applied.getLsbD v = true)
    (k : WaterSound s) : WaterSound (s.setWu x) where
  images := images
  asked dead := by rw [sq_setWu, live] at dead; cases dead
  rest resting := by rw [sq_setWu, ShowState.not_resting_of_live live] at resting; cases resting
  limits := k.limits
  headers p above := by
    rw [aboveIdle_iff, wu_setWu, ls_setWu, output, ← aboveIdle_iff] at above
    exact (k.headers p above).trans (headerCount_mono _ _ fun v _ => opened v)
  speeds := by rw [SpeedsSound, wu_setWu, output]; exact k.speeds

/-- An open asked by a live show keeps the rules, and every other valve's close goes on waiting (R96). -/
theorem wantOpen_waterGoes {v : Fin 192} {s : State} (live : s.sq.state.live = true) (h : opens v) :
    WaterGoes opens s (wantOpen v s) where
  sound k := by
    refine waterSound_asked live ((imagesSound_iff _).mpr fun w lt => ?_) rfl (fun w open_ => ?_) k
    · obtain ⟨wanted, applied, deferred⟩ := wantOpen_images v s ⟨w, lt⟩
      have before := (imagesSound_iff s).mp k.images w lt
      dsimp only at wanted applied deferred
      rw [← wantOpen, wanted, applied, deferred, before.1]
      by_cases same : (⟨w, lt⟩ : Fin 192) = v
      · simp [same, -BitVec.getLsbD_eq_getElem]
      · simpa [same, -BitVec.getLsbD_eq_getElem] using before.2
    · rw [getLsbD_bitInsert, open_, Bool.true_or]
  output := rfl
  waits w closed wait := by
    obtain ⟨wanted, applied, deferred⟩ := wantOpen_images v s w
    have other : w ≠ v := fun same => closed (same ▸ h)
    exact ⟨by rw [deferred, wait.deferred, decide_eq_true other]; rfl, by rw [applied, wait.applied]; rfl,
      by rw [wanted, wait.wanted, decide_eq_false other]; rfl⟩

/-- New commanded speeds of a live show keep the rules: they act at field periods alone (R100). -/
theorem setCommanded_waterGoes {s : State} (x : Vector Nat 16) (live : s.sq.state.live = true) :
    WaterGoes opens s (s.setWu { s.wu with commanded := x }) where
  sound k := waterSound_asked live k.images rfl (fun _ => id) k
  output := rfl
  waits _ _ wait := ⟨wait.deferred, wait.applied, wait.wanted⟩

/-- A close keeps the images sound (R97, R99). -/
theorem wantClose_imagesSound (v : Fin 192) {s : State} (images : ImagesSound s) : ImagesSound (wantClose v s) := by
  by_cases open_ : s.wu.wanted.getLsbD v = true
  · refine (imagesSound_iff _).mpr fun w lt => ?_
    obtain ⟨applied, deferred⟩ := wantClose_images open_ Iff.rfl ⟨w, lt⟩
    have before := (imagesSound_iff s).mp images w lt
    rw [Bool.eq_iff_iff, Bool.and_eq_true, deferred, applied, wantClose_wanted, before.1]
    by_cases same : (⟨w, lt⟩ : Fin 192) = v
    · subst same
      simp [open_, before.2 open_, -BitVec.getLsbD_eq_getElem]
    · have other : w ≠ v := fun e => same (Fin.ext e)
      simp only [same, other, ne_eq, not_false_eq_true, true_or, and_true, false_and, or_false, decide_true, Bool.and_true,
        Bool.and_eq_true, true_and]
      exact before.2
  · rw [wantClose_closed (by simpa using open_)]; exact images

theorem applyOrDefer_wanted (v : Nat) (s : State) : (applyOrDefer v s).wu.wanted = s.wu.wanted := by
  unfold applyOrDefer; split <;> rfl

theorem applyOrDefer_ls (v : Nat) (s : State) : (applyOrDefer v s).ls = s.ls := by
  unfold applyOrDefer; split <;> rfl

/-- A close takes no valve off the header of a pump above idle that is short of wanted-open valves (R97). -/
theorem wantClose_keepsShort {v : Fin 192} {s : State} {p : Fin 16} (above : aboveIdle s p = true)
    (short : shortHeader (wantClose v s) p = true) {w : Nat} (lt : w < 192) (on : s.ls.table.onHeader p w = true)
    (open_ : s.wu.applied.getLsbD w = true) : (wantClose v s).wu.applied.getLsbD w = true := by
  by_cases wanted : s.wu.wanted.getLsbD v = true
  · refine ((wantClose_images wanted Iff.rfl ⟨w, lt⟩).1).mpr ⟨open_, or_iff_not_imp_left.mpr fun same => ?_⟩
    have same : w = v := by simpa [Fin.ext_iff] using same
    subst same
    rw [wantClose_open wanted, shortHeader_iff, applyOrDefer_wanted] at short
    refine (hasBlocking_iff _ _).mpr ⟨p, above, on, (shortHeader_iff _ _).mpr ?_⟩
    rw [applyOrDefer_ls] at short
    exact short
  · rw [wantClose_closed (by simpa using wanted)]; exact open_

/-- A close keeps the rule of the headers: the valves of a pump above idle are applied closed only while it has its min-open
count of valves wanted open (R97, R102). -/
theorem wantClose_headersSound (v : Fin 192) {s : State} (images : ImagesSound s) (headers : HeadersSound s) :
    HeadersSound (wantClose v s) := fun p above => by
  have ls : (wantClose v s).ls = s.ls := by rw [wantClose_frame]; rfl
  have idle : aboveIdle s p = true := by
    rw [aboveIdle_iff, ls, (wantClose_speeds v s).2.1] at above; exact (aboveIdle_iff s p).mpr above
  by_cases short : shortHeader (wantClose v s) p = true
  · rw [ls]
    exact (headers p idle).trans (headerCount_le _ _ fun w lt on => wantClose_keepsShort idle short lt on)
  · exact minOpen_le_applied (wantClose_imagesSound v images) short

/-- A close keeps the rules of the water, and every waiting close goes on waiting (R97). -/
theorem wantClose_waterGoes (v : Fin 192) (s : State) : WaterGoes opens s (wantClose v s) := by
  have output := (wantClose_speeds v s).2.1
  by_cases wanted : s.wu.wanted.getLsbD v = true
  · refine ⟨fun k => ?_, output, fun w _ wait => ?_⟩
    · have live : s.sq.state.live = true := by
        by_contra dead
        rw [(k.asked (by simpa using dead)).1] at wanted
        simp at wanted
      have sq : (wantClose v s).sq = s.sq := by rw [wantClose_frame]; rfl
      have ls : (wantClose v s).ls = s.ls := by rw [wantClose_frame]; rfl
      exact {
        images := wantClose_imagesSound v k.images
        asked := fun dead => by rw [sq, live] at dead; cases dead
        rest := fun resting => by rw [sq, ShowState.not_resting_of_live live] at resting; cases resting
        limits := by rw [LimitsSound, sq, ls]; exact k.limits
        headers := wantClose_headersSound v k.images k.headers
        speeds := by rw [SpeedsSound, output, ls]; exact k.speeds }
    · obtain ⟨applied, deferred⟩ := wantClose_images wanted Iff.rfl w
      have other : w ≠ v := fun same => by rw [← same, wait.wanted] at wanted; cases wanted
      exact ⟨deferred.mpr (.inl wait.deferred), applied.mpr ⟨wait.applied, .inl other⟩, by
        rw [wantClose_wanted, wait.wanted, Bool.false_and]⟩
  · rw [wantClose_closed (by simpa using wanted)]; exact .refl s

theorem closes_waterGoes (vs : List Nat) (lt : ∀ v ∈ vs, v < 192) (s : State) :
    WaterGoes opens s (vs.foldl (fun s v => wantClose v s) s) := by
  induction vs generalizing s with
  | nil => exact .refl s
  | cons v vs ih =>
    rw [List.foldl_cons]
    exact (wantClose_waterGoes ⟨v, lt v List.mem_cons_self⟩ s).trans
      (ih (fun w mem => lt w (List.mem_cons_of_mem v mem)) _)

/-! ## Wind-down -/

/-- The closes of a wind-down entry, before the show leaves its live state (R110). -/
theorem waterWinddown_waterGoes {s : State} (live : s.sq.state.live = true) : WaterGoes opens s (waterWinddown s) :=
  (setCommanded_waterGoes _ live).trans (closes_waterGoes _ (fun _ mem => List.mem_range.mp mem) _)

/-- A live show's sound water is sound when the show winds down with nothing asked of it any more (R110). -/
theorem waterSound_windingDown {s t : State} (k : WaterSound s) (live : s.sq.state.live = true) (wu : t.wu = s.wu)
    (ls : t.ls = s.ls) (state : t.sq.state = .winddown) (asked : t.wu.wanted = 0 ∧ ∀ p : Fin 16, t.wu.commanded[p] = 0) :
    WaterSound t where
  images := by rw [ImagesSound, wu]; exact k.images
  asked _ := asked
  rest resting := by rw [state] at resting; cases resting
  limits := by
    rw [LimitsSound, ls]
    exact ⟨fun busy => rests_of_live live (k.limits.1 busy), fun _ => k.limits.2 (ShowState.not_resting_of_live live)⟩
  headers p above := by
    rw [aboveIdle_iff, wu, ls, ← aboveIdle_iff] at above
    rw [wu, ls]; exact k.headers p above
  speeds := by rw [SpeedsSound, wu, ls]; exact k.speeds

/-- Entry to wind-down from a live show keeps the rules of the water, and closes nothing that waits (R23, R110). -/
theorem windDown_waterGoes (kind : WinddownKind) {s : State} (live : s.sq.state.live = true) :
    WaterGoes opens s (windDown kind s) := by
  have closed := waterWinddown_waterGoes (opens := opens) live
  have sq : (waterWinddown s).sq = s.sq := by rw [waterWinddown_frame, sq_setWu]
  have same : (waterWinddown s).ls = s.ls := by rw [waterWinddown_frame, ls_setWu]
  have wu := windDown_wu kind s
  have ls := (windDown_showOnly kind s).ls
  have state : (windDown kind s).sq.state = .winddown := by rw [windDown_sq]; rfl
  exact ⟨fun k => waterSound_windingDown (closed.sound k) (by rw [sq]; exact live) wu (ls.trans same.symm) state
      ⟨windDown_wanted kind s, windDown_commanded kind s⟩,
    by rw [wu]; exact closed.output, by rw [wu]; exact closed.waits⟩

/-- Completion of wind-down finds the water at rest (R25, R112). -/
theorem completeWinddown_waterGoes {s : State} (done : winddownDone s = true) : WaterGoes opens s (completeWinddown s) := by
  obtain ⟨down, ⟨stopped, closed⟩, -⟩ := (winddownDone_iff s).mp done
  refine .ofWu rfl fun k => waterSound_resting ?_ k.images (k.asked (by rw [down]; rfl)) ⟨closed, stopped⟩
  have after : (completeWinddown s).sq.state = s.sq.kind.after := rfl
  rw [after]; cases s.sq.kind <;> rfl

theorem winddownTest_waterGoes (s : State) : WaterGoes opens s (winddownTest s) := by
  by_cases done : winddownDone s = true
  · rw [winddownTest_done done]; exact completeWinddown_waterGoes done
  · rw [winddownTest_unmet done]; exact .refl s

theorem takeColourPeriod_waterGoes (s : State) : WaterGoes opens s (takeColourPeriod s) :=
  (waterGoes_beside (s := s) (t := colourStep s) rfl rfl rfl).trans (winddownTest_waterGoes _)

/-! ## Entry to RUNNING, and holds -/

theorem enterRunning_waterGoes {s : State} (live : s.sq.state.live = true) : WaterGoes opens s (enterRunning s) :=
  waterGoes_live (by rw [enterRunning_frame]; rfl) (by rw [enterRunning_frame]; rfl) live (enterRunning_live s)

theorem primingTest_waterGoes (s : State) : WaterGoes opens s (primingTest s) := by
  unfold primingTest
  split
  case h_1 priming =>
    have live : s.sq.state.live = true := by rw [priming]; rfl
    split
    · split
      · exact enterRunning_waterGoes live
      · exact waterGoes_live rfl rfl live rfl
    · exact .refl s
  all_goals exact .refl s

theorem takeSync_waterGoes (s : State) : WaterGoes opens s (takeSync s) := by
  unfold takeSync; split
  case isTrue armed => exact enterRunning_waterGoes (by rw [armed]; rfl)
  case isFalse => exact .refl s

theorem holdForHost_waterGoes {s : State} (live : s.sq.state.live = true) : WaterGoes opens s (holdForHost s) :=
  waterGoes_live rfl rfl live rfl

theorem takeHold_waterGoes {s : State} (h : s.sq.state.holdable = true) : WaterGoes opens s (takeHold s) := by
  unfold takeHold; split
  · exact holdForHost_waterGoes (ShowState.live_of_holdable h)
  · exact waterGoes_beside rfl rfl rfl

theorem takeStep_waterGoes {s : State} (live : s.sq.state.live = true) : WaterGoes opens s (takeStep s) := by
  have cleared : WaterGoes opens s (s.setSq { s.sq with holdHost := false, holdPending := .atMark }) :=
    waterGoes_beside rfl rfl rfl
  exact cleared.trans (enterRunning_waterGoes live)

theorem takeProceed_waterGoes {s : State} (live : s.sq.state.live = true) : WaterGoes opens s (takeProceed s) := by
  have cleared : WaterGoes opens s (s.setSq { s.sq with holdHost := false, holdPending := .clear }) :=
    waterGoes_beside rfl rfl rfl
  unfold takeProceed; dsimp only; split
  · exact cleared
  · exact cleared.trans (enterRunning_waterGoes live)

theorem holdEntryMatched_waterGoes (s : State) : WaterGoes opens s (holdEntryMatched s) := by
  unfold holdEntryMatched
  split
  case h_1 h | h_2 h | h_3 h => exact waterGoes_live rfl rfl (by rw [h]; rfl) rfl
  all_goals exact .refl s

theorem noHoldEntryMatched_waterGoes (s : State) : WaterGoes opens s (noHoldEntryMatched s) := by
  unfold noHoldEntryMatched
  split
  case h_1 held =>
    split
    · exact waterGoes_beside rfl rfl rfl
    · exact waterGoes_live rfl rfl (by rw [held]; rfl) rfl
  all_goals exact .refl s

/-! ## Faults and evaluations -/

theorem takeFault_waterGoes (cause : FaultCause) (s : State) : WaterGoes opens s (takeFault cause s) := by
  by_cases live : s.sq.state.live = true
  · rw [takeFault_live cause live]
    have filled : WaterGoes opens s (fillRecord cause s) := waterGoes_beside rfl rfl rfl
    exact (filled.trans (windDown_waterGoes .fault live)).trans (raise_waterGoes .fault _)
  · unfold takeFault
    split
    case h_1 idle => exact waterGoes_resting rfl (by rw [idle]; rfl) rfl
    case h_7 => split <;> exact waterGoes_beside rfl rfl rfl
    case h_8 => exact waterGoes_beside rfl rfl rfl
    all_goals exact absurd (by simp [*, ShowState.live]) live

theorem handTransition_waterGoes (e : Fin 8) (s : State) : WaterGoes opens s (handTransition e s) := by
  have raised : WaterGoes opens s (raise .interlock s) := raise_waterGoes .interlock s
  unfold handTransition
  dsimp only
  split
  · exact raised.trans (holdEntryMatched_waterGoes _)
  · exact raised.trans (takeFault_waterGoes _ _)
  all_goals exact raised

theorem handTransitions_waterGoes (entries : Byte) (s : State) : WaterGoes opens s (handTransitions entries s) := by
  unfold handTransitions
  generalize List.finRange 8 = es
  induction es generalizing s with
  | nil => exact .refl s
  | cons e es ih =>
    rw [List.foldl_cons]
    refine WaterGoes.trans ?_ (ih _)
    split
    · exact handTransition_waterGoes e s
    · exact .refl s

theorem handHoldEnd_waterGoes (before : Bool) (s : State) : WaterGoes opens s (handHoldEnd before s) := by
  unfold handHoldEnd; split
  · exact noHoldEntryMatched_waterGoes s
  · exact .refl s

theorem takeSets_waterGoes (matched latched moved : Byte) (s : State) :
    WaterGoes opens s (takeSets matched latched moved s) :=
  ((setGu_waterGoes s _).trans (handTransitions_waterGoes moved _)).trans (handHoldEnd_waterGoes _ _)

theorem evaluateLevels_waterGoes (s : State) : WaterGoes opens s (evaluateLevels s) := takeSets_waterGoes _ _ _ s

theorem startGate_waterGoes (s : State) : WaterGoes opens s (startGate s) := setGu_waterGoes s _

theorem timerExpires_waterGoes (input : Fin 16) (s : State) : WaterGoes opens s (timerExpires input s) := by
  unfold timerExpires expireDebounce
  dsimp only
  repeat' split
  · exact setGu_waterGoes s _
  · exact (setGu_waterGoes s _).trans (takeSets_waterGoes _ _ _ _)
  · exact .refl s

theorem leaveTripped_waterGoes (s : State) : WaterGoes opens s (leaveTripped s) := by
  unfold leaveTripped; split
  case isTrue h =>
    simp only [inState, Bool.and_eq_true, decide_eq_true_eq] at h
    exact waterGoes_resting rfl (by rw [h.1]; rfl) rfl
  case isFalse => exact .refl s

/-! ## Limit operations -/

/-- An operation in progress has the show at rest, so that the limit store may change (R93, R158). -/
theorem setLs_busy_waterGoes {s : State} (x : LimitStore) (busy : s.ls.operation.isSome = true) :
    WaterGoes opens s (s.setLs x) :=
  .ofWu rfl fun k =>
    (waterGoes_resting (opens := opens) (s := s) (t := s.setLs x) rfl (k.limits.1 busy) (k.limits.1 busy)).sound k

theorem finishOperation_waterGoes (name : OpName) (result : CompletionResult) {s : State}
    (busy : s.ls.operation.isSome = true) : WaterGoes opens s (finishOperation name result s) :=
  ((setLs_busy_waterGoes _ busy).trans (raise_waterGoes .limit _)).trans (evaluateLevels_waterGoes _)

theorem completeProgramRow_waterGoes (holds : Bool) (s : State) : WaterGoes opens s (completeProgramRow holds s) := by
  unfold completeProgramRow
  split
  case h_1 o busy =>
    have busy : s.ls.operation.isSome = true := by rw [busy]; rfl
    split
    · exact (setLs_busy_waterGoes _ busy).trans (finishOperation_waterGoes _ _ busy)
    all_goals exact .refl s
  case h_2 => exact .refl s

theorem LimitStore.busy_of_name {x : LimitStore} {name : OpName} (h : x.operationName = some name) :
    x.operation.isSome = true := by
  rw [operationName, Option.map_eq_some_iff] at h
  obtain ⟨o, some, -⟩ := h
  rw [some]; rfl

theorem completeSetLock_waterGoes (s : State) : WaterGoes opens s (completeSetLock s) := by
  unfold completeSetLock; split
  case isTrue h =>
    have busy := LimitStore.busy_of_name h
    exact (setLs_busy_waterGoes _ busy).trans (finishOperation_waterGoes _ _ busy)
  case isFalse => exact .refl s

theorem completeEraseAll_waterGoes (s : State) : WaterGoes opens s (completeEraseAll s) := by
  unfold completeEraseAll; split
  case isTrue h =>
    have busy := LimitStore.busy_of_name h
    exact (setLs_busy_waterGoes _ busy).trans (finishOperation_waterGoes _ _ busy)
  case isFalse => exact .refl s

/-- A limit command that is accepted is taken in IDLE (R158). -/
theorem lawfulOutcome_idle {c : LimitCommandKind} {s : State} (h : lawfulOutcome c s = .accepted) : s.sq.state = .idle := by
  by_contra other
  unfold lawfulOutcome at h
  rw [if_pos other] at h; cases h

theorem limitOutcome_idle {w : Word} {progEn : Bool} {s : State} (h : limitOutcome w progEn s = .accepted) :
    s.sq.state = .idle := by
  unfold limitOutcome at h
  split at h
  · cases h
  · split at h
    · cases h
    · exact lawfulOutcome_idle h

theorem takeLimitCommand_waterGoes (w : Word) (progEn : Bool) (s : State) :
    WaterGoes opens s (takeLimitCommand w progEn s) := by
  have recorded : ∀ o, WaterGoes opens s (s.setLs (s.ls.record w o)) := fun _ =>
    WaterAside.goes ⟨rfl, rfl, rfl, rfl, rfl, rfl⟩
  unfold takeLimitCommand limitStoreAfter
  dsimp only
  split
  · split
    case isTrue accepted =>
      have resting : s.sq.state.resting = true := by rw [limitOutcome_idle accepted]; rfl
      exact waterGoes_resting rfl resting resting
    case isFalse => exact recorded _
  · exact recorded _

theorem captureStaging_waterGoes (i : Fin 16) (value : Word) (s : State) : WaterGoes opens s (captureStaging i value s) := by
  unfold captureStaging; split
  · exact .refl s
  · exact WaterAside.goes ⟨rfl, rfl, rfl, rfl, rfl, rfl⟩

/-! ## START -/

/-- START takes a show out of IDLE on a VALID table, with no limit operation in progress (R2). -/
theorem startShow_waterGoes {s : State} (accepted : startOutcome s = .accepted) : WaterGoes opens s (startShow s) := by
  have ok : startLimitsOk s.ls = true := by
    unfold startOutcome at accepted
    repeat' split at accepted
    all_goals simp_all
  simp only [startLimitsOk, LimitStore.valid, Bool.and_eq_true, decide_eq_true_eq, Option.isNone_iff_eq_none] at ok
  unfold startShow
  dsimp only
  refine WaterGoes.trans ?_ (primingTest_waterGoes _)
  refine .ofWu rfl fun k => ?_
  exact {
    images := k.images
    asked := fun dead => by cases dead
    rest := fun resting => by cases resting
    limits := ⟨fun busy => absurd (show s.ls.operation.isSome = true from busy) (by simp [ok.2]), fun _ => ok.1⟩
    headers := k.headers
    speeds := k.speeds }

/-! ## Examination of the head -/

theorem HeadOnly.waterGoes {s t : State} (h : HeadOnly s t) (state : t.sq.state = s.sq.state) : WaterGoes opens s t :=
  waterGoes_beside h.wu h.ls state

theorem examineHead_waterGoes (s : State) : WaterGoes opens s (examineHead s) :=
  (examineHead_headOnly s).waterGoes (examineHead_state s)

theorem retryHead_waterGoes (s : State) : WaterGoes opens s (retryHead s) :=
  (retryHead_headOnly s).waterGoes (retryHead_state s)

theorem resumeRun_waterGoes (s : State) : WaterGoes opens s (resumeRun s) :=
  (resumeRun_headOnly s).waterGoes (resumeRun_state s)

/-! ## The advance -/

/-- A delivery opens no valve but the one its entry opens (R96, R97). -/
theorem deliver_waterGoes {a : Action} {s : State} (live : s.sq.state.live = true)
    (h : ∀ v, a = .valve v true → opens v) : WaterGoes opens s (deliver a s) := by
  unfold deliver
  split
  · exact wantOpen_waterGoes live (h _ rfl)
  · exact wantClose_waterGoes _ s
  · exact setCommanded_waterGoes _ live
  · exact waterGoes_beside rfl rfl rfl
  · rw [releaseFollow_frame]; exact waterGoes_beside rfl rfl rfl
  · unfold releaseMark; dsimp only; split <;> exact waterGoes_beside rfl rfl rfl
  · exact windDown_waterGoes .normal live

/-- The releases of an advance open no valve but those their due entries open (R62). -/
theorem releaseDue_waterGoes {es : List ReleaseEntry} {s : State} (live : s.sq.state.live = true)
    (h : ∀ e ∈ es, e.due ≤ s.sq.position → ∀ v, e.action = .valve v true → opens v) :
    WaterGoes opens s (releaseDue es s).state ∧
    ((releaseDue es s).ended = false → (releaseDue es s).state.sq.state = s.sq.state) := by
  induction es generalizing s with
  | nil => exact ⟨.refl s, fun _ => rfl⟩
  | cons e rest ih =>
    unfold releaseDue
    dsimp only
    split
    case isTrue due =>
      have taken : WaterGoes opens s (takeEntry e rest s) := waterGoes_beside rfl rfl rfl
      have delivered : WaterGoes opens s (deliver e.action (takeEntry e rest s)) :=
        taken.trans (deliver_waterGoes live (h e List.mem_cons_self due))
      split
      · exact ⟨delivered, fun going => by cases going⟩
      case isFalse other =>
        have sq := deliver_sq other (takeEntry e rest s)
        have again := ih (s := deliver e.action (takeEntry e rest s)) (by rw [sq]; exact live)
          (by rw [sq]; exact fun x mem => h x (List.mem_cons_of_mem e mem))
        exact ⟨delivered.trans again.1, fun going => (again.2 going).trans (by rw [sq]; rfl)⟩
    case isFalse => exact ⟨.refl s, fun _ => rfl⟩

theorem examineAfter_waterGoes (r : Released) : WaterGoes opens r.state (examineAfter r) := by
  unfold examineAfter
  repeat' split
  · exact resumeRun_waterGoes _
  · exact retryHead_waterGoes _
  · exact .refl _

theorem afterReleases_waterGoes {r : Released} (live : r.ended = false → r.state.sq.state.live = true) :
    WaterGoes opens r.state (afterReleases r) := by
  have examined := examineAfter_waterGoes (opens := opens) r
  unfold afterReleases
  split
  · exact .refl _
  case isFalse going =>
    split
    · have still : (examineAfter r).sq.state.live = true := by
        rw [(examineAfter_keeps r).2.2]; exact live (by simpa using going)
      exact (examined.trans (holdForHost_waterGoes still)).trans (resumeRun_waterGoes _)
    · exact examined

/-- The valve is opened by an entry of the table that is due at the next position (R62, R96). -/
def opensNext (s : State) (v : Fin 192) : Prop :=
  ∃ e ∈ s.sq.table, e.due.toNat ≤ s.sq.position.toNat + 1 ∧ e.action = .valve v true

/-- An advance opens the valves of its due entries, and no other. -/
theorem advance_waterGoes {s : State} (live : s.sq.state.live = true) (h : ∀ v, opensNext s v → opens v) :
    WaterGoes opens s (advance s) := by
  by_cases limit : s.sq.position = 0xFFFFFFFF
  · rw [advance_limit limit]; exact takeFault_waterGoes _ s
  · rw [advance_moves limit]
    have released := releaseDue_waterGoes (opens := opens) (es := s.sq.table) (s := moved s) live
      fun e mem due v opened => h v ⟨e, mem, (due_moved limit).mp due, opened⟩
    have risen : WaterGoes opens s (moved s) := waterGoes_beside rfl rfl rfl
    exact (risen.trans released.1).trans
      (afterReleases_waterGoes fun going => by rw [released.2 going]; exact live)

/-! ## The frame period -/

theorem starveLimitTest_waterGoes (s : State) : WaterGoes opens s (starveLimitTest s) := by
  unfold starveLimitTest; split
  · exact takeFault_waterGoes _ s
  · exact .refl s

theorem takeReport_waterGoes (o : PeriodOutcome) {s : State} (h : ∀ v, opensNext s v → opens v) :
    WaterGoes opens s (takeReport o s) := by
  unfold takeReport
  split
  case h_1 running | h_2 running => exact advance_waterGoes (by rw [running]; rfl) h
  case h_3 starved | h_4 starved =>
    have resumed : WaterGoes opens s (setShow .running s) := waterGoes_live rfl rfl (by rw [starved]; rfl) rfl
    exact resumed.trans (advance_waterGoes rfl h)
  case h_5 running => exact waterGoes_live rfl rfl (by rw [running]; rfl) rfl
  case h_6 =>
    have counted : WaterGoes opens s (s.setSq { s.sq with starveCount := s.sq.starveCount + 1 }) :=
      waterGoes_beside rfl rfl rfl
    exact counted.trans (starveLimitTest_waterGoes _)
  case h_7 => exact .refl s

theorem MusicOnly.waterGoes {s t : State} (h : MusicOnly s t) : WaterGoes opens s t :=
  waterGoes_beside h.wu h.ls (by rw [h.sq])

theorem playPeriod_waterGoes {s : State} (h : ∀ v, opensNext s v → opens v) : WaterGoes opens s (playPeriod s) := by
  by_cases clock : s.au.clock.isSome = true
  · have sq := takeFrame_sq s
    have taken : WaterGoes opens s (takeFrame s) := by
      unfold takeFrame; split <;> exact waterGoes_beside rfl rfl rfl
    have next : ∀ v, opensNext (takeFrame s) v → opens v := fun v => by rw [opensNext, sq]; exact h v
    rw [playPeriod_runs clock]
    exact ((taken.trans (takeReport_waterGoes _ next)).trans (setAu_waterGoes _ _)).trans
      (feedMonitors_musicOnly _ _).waterGoes
  · rw [playPeriod_stopped (by simpa using clock)]; exact .refl s

theorem resumePeriod_waterGoes {s : State} (h : ∀ v, opensNext s v → opens v) : WaterGoes opens s (resumePeriod s) := by
  unfold resumePeriod; split
  · exact playPeriod_waterGoes h
  · exact .refl s

/-! ## Bursts and marks -/

theorem raiseSpace_waterGoes (crossed : Bool) (s : State) : WaterGoes opens s (raiseSpace crossed s) := by
  unfold raiseSpace; split
  · exact raise_waterGoes .space s
  · exact .refl s

theorem completeCue_waterGoes (slot : Fin Config.cueSlots) (s : State) : WaterGoes opens s (completeCue slot s) := by
  unfold completeCue
  dsimp only
  split
  · exact ((setFu_waterGoes s _).trans (raiseSpace_waterGoes _ _)).trans (examineHead_waterGoes _)
  · exact (setFu_waterGoes s _).trans (raiseSpace_waterGoes _ _)

theorem completeAudio_waterGoes (slot : Fin Config.audioSlots) (two : Bool) (s : State) :
    WaterGoes opens s (completeAudio slot two s) := by
  unfold completeAudio
  exact (((setFu_waterGoes s _).trans (setAu_waterGoes _ _)).trans (raiseSpace_waterGoes _ _)).trans
    (primingTest_waterGoes _)

theorem endBurst_waterGoes (s : State) : WaterGoes opens s (endBurst s) := by
  have freed : WaterGoes opens s (freePort s) := setPu_waterGoes s _
  unfold endBurst completeBurst
  split
  · dsimp only
    split
    · exact freed
    · split
      · exact freed.trans (completeCue_waterGoes _ _)
      · exact freed.trans (completeAudio_waterGoes _ _ _)
  all_goals exact .refl s

theorem writeCueMark_waterGoes (value : Word) (s : State) : WaterGoes opens s (writeCueMark value s) := by
  unfold writeCueMark; split <;> exact waterGoes_beside rfl rfl rfl

theorem writeAudioMark_waterGoes (value : Word) (s : State) : WaterGoes opens s (writeAudioMark value s) := by
  unfold writeAudioMark; split
  · exact (setFu_waterGoes s _).trans (primingTest_waterGoes _)
  · exact waterGoes_beside rfl rfl rfl

/-! ## Show commands -/

theorem takeResync_waterGoes (s : State) : WaterGoes opens s (takeResync s) := by
  unfold takeResync; dsimp only; split
  · exact waterGoes_beside rfl rfl rfl
  · exact (setFu_waterGoes s _).trans (examineHead_waterGoes _)

theorem ShowCommand.act_waterGoes (c : ShowCommand) {s : State} (h : c.outcome s = .accepted) :
    WaterGoes opens s (c.act s) := by
  cases c
  case start => exact startShow_waterGoes h
  case stop => exact windDown_waterGoes .normal (stateThenArg_accepted h)
  case hold => exact takeHold_waterGoes (stateThenArg_accepted h)
  case step =>
    have admitted := stateThenArg_accepted h
    simp only [inState, Bool.and_eq_true, decide_eq_true_eq] at admitted
    exact takeStep_waterGoes (by rw [admitted.1.1]; rfl)
  case proceed =>
    have held : s.sq.state = .held := by simpa [inState] using stateThenArg_accepted h
    exact takeProceed_waterGoes (by rw [held]; rfl)
  case cueResync => exact takeResync_waterGoes s
  case releaseInterlocks => exact (takeSets_waterGoes _ _ _ s).trans (leaveTripped_waterGoes _)
  case mute => exact (takeMute_musicOnly _ s).waterGoes
  case ringReset | ambient | monitor | spaceTriggers | clearCounts => exact waterGoes_beside rfl rfl rfl

theorem takeCommand_waterGoes (code : Word) (c : ShowCommand) (s : State) :
    WaterGoes opens s (takeCommand code (c.outcome s) c.act s) := by
  unfold takeCommand; split
  · exact (ShowCommand.act_waterGoes c ‹_›).trans (waterGoes_beside rfl rfl rfl)
  · exact waterGoes_beside rfl rfl rfl

theorem takeShowCommand_waterGoes (code : Word) (s : State) : WaterGoes opens s (takeShowCommand code s) := by
  unfold takeShowCommand; split
  · exact takeCommand_waterGoes code _ s
  · exact waterGoes_beside rfl rfl rfl

/-! ## Written words, reads and grants -/

theorem takeArg_waterGoes (i : Fin 3) (value : Word) (s : State) : WaterGoes opens s (takeArg i value s) := by
  unfold takeArg; split <;> exact waterGoes_beside rfl rfl rfl

theorem captureFull_waterGoes (offset : Nat) (value : Word) (progEn : Bool) (s : State) :
    WaterGoes opens s (captureFull offset value progEn s) := by
  have enabled : WaterGoes opens s (takeEnable value s) := waterGoes_beside rfl rfl rfl
  have cleared : WaterGoes opens s (takeClear value s) := waterGoes_beside rfl rfl rfl
  exact .ite (takeShowCommand_waterGoes value s) <| .ite (takeArg_waterGoes 0 value s) <|
    .ite (takeArg_waterGoes 1 value s) <| .ite (takeArg_waterGoes 2 value s) <| .ite (writeCueMark_waterGoes value s) <|
    .ite (writeAudioMark_waterGoes value s) <| .ite (takeLimitCommand_waterGoes value progEn s) <| .ite enabled <|
    .ite cleared <| .ite (captureStaging_waterGoes _ value s) (.refl s)

theorem captureWord_waterGoes (w : BusWrite) (progEn : Bool) (s : State) : WaterGoes opens s (captureWord w progEn s) := by
  unfold captureWord
  repeat' split
  · exact captureFull_waterGoes _ _ _ s
  · exact waterGoes_beside rfl rfl rfl
  all_goals exact .refl s

theorem pushWord_waterGoes (w : BusWrite) (refused : Bool) (s : State) : WaterGoes opens s (pushWord w refused s) := by
  rw [pushWord_frame]; exact waterGoes_beside rfl rfl rfl

theorem decideWord_waterGoes (w : BusWrite) (progEn : Bool) (s : State) : WaterGoes opens s (decideWord w progEn s) := by
  unfold decideWord
  repeat' split
  · exact pushWord_waterGoes w false s
  · rw [refuseWord_frame]; exact waterGoes_beside rfl rfl rfl
  · exact (captureWord_waterGoes w progEn s).trans (pushWord_waterGoes w false _)

theorem captured_waterGoes {offset : Nat} {value : Word} {burst : Bool} {capture : State → State} {s : State}
    (h : WaterGoes opens s (capture s)) : WaterGoes opens s (captured offset value burst capture s) := by
  unfold captured; dsimp only; split
  · exact pushWord_waterGoes _ _ _
  · exact h.trans (pushWord_waterGoes _ _ _)

theorem presentRead_waterGoes (r : BusRead) (s : State) : WaterGoes opens s (presentRead r s) := by
  rw [presentRead_frame]; exact waterGoes_beside rfl rfl rfl

theorem grantPort_waterGoes (first : Bool) (s : State) : WaterGoes opens s (grantPort first s) := by
  rw [grantPort_frame]; exact waterGoes_beside rfl rfl rfl

theorem changeLevel_waterGoes (input : Fin 16) (high : Bool) (s : State) : WaterGoes opens s (changeLevel input high s) := by
  unfold changeLevel; split
  · exact .refl s
  · exact setGu_waterGoes s _

theorem gateExpires_waterGoes (s : State) : WaterGoes opens s (gateExpires s) := by
  unfold gateExpires expireGate; dsimp only
  repeat' split
  · exact setGu_waterGoes s _
  · exact (setGu_waterGoes s _).trans (raise_waterGoes .wind _)
  · exact .refl s

end

/-! ## The field period -/

theorem getLsbD_stillBlocked (s : State) {v : Nat} (lt : v < 192) :
    (stillBlocked s).getLsbD v = (s.wu.deferred.getLsbD v && hasBlocking s v) := by
  simp [stillBlocked, lt, -BitVec.getLsbD_eq_getElem]

/-- A field period's images, with the blocking pumps as the ramps leave them (R98). -/
theorem waterPeriod_images (s : State) {v : Nat} (lt : v < 192) :
    ((waterPeriod s).wu.deferred.getLsbD v = (s.wu.deferred.getLsbD v && hasBlocking (rampPumps s) v)) ∧
    ((waterPeriod s).wu.applied.getLsbD v =
      (s.wu.applied.getLsbD v && (!s.wu.deferred.getLsbD v || hasBlocking (rampPumps s) v))) := by
  have deferred : (waterPeriod s).wu.deferred = s.wu.deferred &&& stillBlocked (rampPumps s) := rfl
  have applied : (waterPeriod s).wu.applied =
      s.wu.applied &&& ~~~ (s.wu.deferred &&& ~~~ stillBlocked (rampPumps s)) := rfl
  have same : (rampPumps s).wu.deferred = s.wu.deferred := rfl
  rw [deferred, applied]
  simp only [BitVec.getLsbD_and, BitVec.getLsbD_not, getLsbD_stillBlocked _ lt, same, lt, decide_true, Bool.true_and]
  cases s.wu.deferred.getLsbD v <;> simp

theorem waterPeriod_output (s : State) (p : Fin 16) : (waterPeriod s).wu.output[p] = rampedOutput s p :=
  getFin_tabulate _ p

/-- The blocking pumps after a field period's ramps (R94, R98). -/
theorem hasBlocking_rampPumps (s : State) (v : Nat) : hasBlocking (rampPumps s) v = true ↔
    ∃ p : Fin 16, s.ls.table.idleSpeed p < (waterPeriod s).wu.output[p] ∧ s.ls.table.onHeader p v = true ∧
      shortHeader s p = true := by
  rw [hasBlocking_iff]
  exact exists_congr fun p => and_congr_left' (aboveIdle_iff _ p)

/-- A pump whose header is short of wanted-open valves does not rise above idle (R102, R106). -/
theorem aboveIdle_before {s : State} {p : Fin 16} (short : shortHeader s p = true)
    (above : s.ls.table.idleSpeed p < (waterPeriod s).wu.output[p]) : aboveIdle s p = true := by
  have step := rampStep_le s.wu.output[p] (pumpTarget s p) (s.ls.table.upRate p) (fallingRate s p)
  have target := pumpTarget_short short
  rw [waterPeriod_output, rampedOutput] at above
  rw [aboveIdle_iff]
  omega

/-- A field period keeps the rules of the water (R98, R102, R106, R112). -/
theorem waterPeriod_sound {s : State} (k : WaterSound s) : WaterSound (waterPeriod s) := by
  have images : ImagesSound (waterPeriod s) := (imagesSound_iff _).mpr fun v lt => by
    obtain ⟨deferred, applied⟩ := waterPeriod_images s lt
    have before := (imagesSound_iff s).mp k.images v lt
    have wanted : (waterPeriod s).wu.wanted = s.wu.wanted := rfl
    rw [deferred, applied, wanted, before.1]
    cases open_ : s.wu.wanted.getLsbD v
    · cases s.wu.applied.getLsbD v <;> simp
    · simpa using before.2 open_
  exact {
    images := images
    asked := k.asked
    rest := fun resting => by
      have done : WaterDone s.wu := (k.rest resting).symm
      have commanded := (k.asked (ShowState.not_live_of_resting resting)).2
      obtain ⟨output, applied⟩ := waterPeriod_rest done commanded
      exact ⟨applied, fun p => by rw [output]; exact done.1 p⟩
    limits := k.limits
    headers := fun p above => by
      by_cases short : shortHeader s p = true
      · have above := (aboveIdle_iff _ p).mp above
        refine (k.headers p (aboveIdle_before short above)).trans (headerCount_le _ _ fun v lt on open_ => ?_)
        have blocked := (hasBlocking_rampPumps s v).mpr ⟨p, above, on, short⟩
        rw [(waterPeriod_images s lt).2, open_, blocked, Bool.or_true, Bool.true_and]
      · exact minOpen_le_applied (s := waterPeriod s) images short
    speeds := fun p => by
      rw [waterPeriod_output]
      exact rampStep_bound _ _ (k.speeds p) ((Nat.min_le_right _ _).trans (effectiveCap_le s p).1) }

theorem takeFieldPeriod_sound {s : State} (k : WaterSound s) : WaterSound (takeFieldPeriod s) :=
  (winddownTest_waterGoes (opens := fun _ => False) _).sound (waterPeriod_sound k)

theorem deferredClosePeriod_sound (v : Fin 192) {s : State} (k : WaterSound s) : WaterSound (deferredClosePeriod v s) := by
  unfold deferredClosePeriod; split
  · exact takeFieldPeriod_sound k
  · exact k

theorem winddownPeriod_sound {s : State} (k : WaterSound s) : WaterSound (winddownPeriod s) := by
  unfold winddownPeriod
  repeat' split
  · exact takeFieldPeriod_sound k
  · exact (takeColourPeriod_waterGoes (opens := fun _ => False) s).sound k
  · exact k

/-! ## Reset -/

/-- The water stands at its reset values while RESET_N is asserted, and the table may change then (R92, R165). -/
theorem assertReset_sound (s : State) : WaterSound (assertReset s) :=
  waterSound_resting rfl (show ImagesSound State.reset by decide) ⟨rfl, getFin_replicate 0⟩ ⟨rfl, getFin_replicate 0⟩

/-- The release of reset finds the show in IDLE, evaluates the levels, and takes the first periods (R108, R117). -/
theorem endReset_sound (straps : BitVec 6) (senses : Half) {s : State} (k : WaterSound s) (reset : ResetSound s) :
    WaterSound (endReset straps senses s) := by
  unfold endReset; split
  case isTrue asserted =>
    have resting : s.sq.state.resting = true := by rw [(reset asserted).1]; rfl
    have recomputed : WaterGoes (fun _ => False) s
        (recomputeTable (sampleSenses senses (sampleStraps straps { s with inReset := false }))) :=
      waterGoes_resting rfl resting resting
    have started := (recomputed.trans (evaluateLevels_waterGoes _)).trans (startGate_waterGoes _)
    exact (takeColourPeriod_waterGoes (opens := fun _ => False) _).sound (takeFieldPeriod_sound (started.sound k))
  case isFalse => exact k

/-! ## Every command -/

/-- The commands that can be a field period or a reset: the only ones that move an output (R106). -/
def movesOutputs : Instr → Bool
  | .fieldPeriod | .deferredCloseApply _ | .winddownCompletion | .resetAssert | .resetRelease _ _ => true
  | _ => false

/-- What a command answers is the settled state of an operation that goes on with the water. -/
def AnswersWater (opens : Fin 192 → Prop) (s : State) (o : Host.Outcome State Fault Refusal) : Prop :=
  ∃ x, o = answer x ∧ WaterGoes opens s x

section
variable {opens : Fin 192 → Prop}

theorem answersWater {s x : State} (h : WaterGoes opens s x) : AnswersWater opens s (answer x) := ⟨x, rfl, h⟩

theorem answersWater_outOfReset {f : State → State} {s : State} (h : WaterGoes opens s (f s)) :
    AnswersWater opens s (answer (outOfReset f s)) := by
  refine answersWater ?_
  unfold outOfReset; split
  · exact .refl s
  · exact h

theorem execArbiterGrant_answersWater (input : GrantInput) (s : State) :
    AnswersWater opens s (execArbiterGrant input s) := by
  unfold execArbiterGrant; split
  · exact answersWater (((presentRead_waterGoes _ s).trans (setPu_waterGoes _ _)).trans (grantPort_waterGoes _ _))
  · exact answersWater (grantPort_waterGoes _ s)

/-- A command that is neither a field period nor a reset goes on with the water; only a frame period opens valves. -/
theorem exec_answersWater {c : Instr} {s : State} (h : movesOutputs c = false)
    (opened : (c = .framePeriod ∨ c = .starvedResume) → ∀ v, opensNext s v → opens v) :
    AnswersWater opens s (exec c s) := by
  cases c
  case start => exact answersWater (captured_waterGoes (takeCommand_waterGoes _ .start s))
  case stop => exact answersWater (captured_waterGoes (takeCommand_waterGoes _ .stop s))
  case hold => exact answersWater (captured_waterGoes (takeCommand_waterGoes _ .hold s))
  case step => exact answersWater (captured_waterGoes (takeCommand_waterGoes _ .step s))
  case proceed => exact answersWater (captured_waterGoes (takeCommand_waterGoes _ .proceed s))
  case ringReset => exact answersWater (captured_waterGoes (takeCommand_waterGoes _ .ringReset s))
  case ambient => exact answersWater (captured_waterGoes (takeCommand_waterGoes _ .ambient s))
  case cueResync => exact answersWater (captured_waterGoes (takeCommand_waterGoes _ .cueResync s))
  case releaseInterlocks => exact answersWater (captured_waterGoes (takeCommand_waterGoes _ .releaseInterlocks s))
  case mute => exact answersWater (captured_waterGoes (takeCommand_waterGoes _ .mute s))
  case monitor => exact answersWater (captured_waterGoes (takeCommand_waterGoes _ .monitor s))
  case spaceTriggers => exact answersWater (captured_waterGoes (takeCommand_waterGoes _ .spaceTriggers s))
  case clearCounts => exact answersWater (captured_waterGoes (takeCommand_waterGoes _ .clearCounts s))
  case showCmdUnknownCode => exact answersWater (captured_waterGoes (takeShowCommand_waterGoes _ s))
  case showCmdPartialWrite | processorWrite => exact answersWater (decideWord_waterGoes _ _ s)
  case showArgWrite => exact answersWater (captured_waterGoes (takeArg_waterGoes _ _ s))
  case cueMarkWrite => exact answersWater (captured_waterGoes (writeCueMark_waterGoes _ s))
  case audioMarkWrite => exact answersWater (captured_waterGoes (writeAudioMark_waterGoes _ s))
  case attnEnableWrite | attnClearWrite => exact answersWater (captured_waterGoes (waterGoes_beside rfl rfl rfl))
  case causeWordRead => exact answersWater (presentRead_waterGoes _ s)
  case stagingWordWrite => exact answersWater (captured_waterGoes (captureStaging_waterGoes _ _ s))
  case programRow | eraseAll | setLock | clearStaging | limitCmdUnknownCode =>
    exact answersWater (captured_waterGoes (takeLimitCommand_waterGoes _ _ s))
  case programRowCompletion => exact answersWater_outOfReset (completeProgramRow_waterGoes _ s)
  case eraseAllCompletion => exact answersWater_outOfReset (completeEraseAll_waterGoes s)
  case setLockCompletion => exact answersWater_outOfReset (completeSetLock_waterGoes s)
  case arbiterGrant => exact execArbiterGrant_answersWater _ s
  case processorTransactionEnd => exact answersWater (by rw [endTransaction_frame]; exact setPu_waterGoes s _)
  case fetchBurstCompletion => exact answersWater_outOfReset (endBurst_waterGoes s)
  case primingComplete => exact answersWater_outOfReset (primingTest_waterGoes s)
  case waitingRecordExpansion => exact answersWater_outOfReset (retryHead_waterGoes s)
  case syncInRising => exact answersWater_outOfReset (takeSync_waterGoes s)
  case framePeriod => exact answersWater_outOfReset (playPeriod_waterGoes (opened (.inl rfl)))
  case starvedResume => exact answersWater_outOfReset (resumePeriod_waterGoes (opened (.inr rfl)))
  case starveLimit => exact answersWater_outOfReset (starveLimitTest_waterGoes s)
  case windowEnd => exact answersWater_outOfReset (endWindow_musicOnly _ s).waterGoes
  case colourPeriod => exact answersWater_outOfReset (takeColourPeriod_waterGoes s)
  case senseLevelChange => exact answersWater_outOfReset (changeLevel_waterGoes _ _ s)
  case debounceTimerExpiry => exact answersWater_outOfReset (timerExpires_waterGoes _ s)
  case windInRising => exact answersWater_outOfReset (setGu_waterGoes s _)
  case windGateExpiry => exact answersWater_outOfReset (gateExpires_waterGoes s)
  all_goals cases h

theorem settle_waterGoes (s : State) : WaterGoes opens s (settle s) :=
  waterGoes_beside (settle_wu s) (settle_ls s) (by rw [settle_sq])

theorem exec_waterGoes {c : Instr} {s t : State} (h : movesOutputs c = false)
    (opened : (c = .framePeriod ∨ c = .starvedResume) → ∀ v, opensNext s v → opens v) (taken : exec c s = .next t) :
    WaterGoes opens s t := by
  obtain ⟨x, row, goes⟩ := exec_answersWater h opened
  rw [Host.Outcome.next.inj (taken.symm.trans row)]
  exact goes.trans (settle_waterGoes x)

end

/-- A field period or a reset that acts keeps the rules of the water. -/
theorem exec_moving_sound {c : Instr} {s t : State} (h : movesOutputs c = true) (k : WaterSound s) (reset : ResetSound s)
    (taken : exec c s = .next t) : WaterSound t := by
  have settled : ∀ x : State, exec c s = answer x → WaterSound x → WaterSound t := fun x row sound => by
    rw [Host.Outcome.next.inj (taken.symm.trans row)]
    exact (settle_waterGoes (opens := fun _ => False) x).sound sound
  have event : ∀ f : State → State, exec c s = answer (outOfReset f s) → WaterSound (f s) → WaterSound t :=
    fun f row sound => settled _ row (by unfold outOfReset; split; exacts [k, sound])
  cases c
  case fieldPeriod => exact event takeFieldPeriod rfl (takeFieldPeriod_sound k)
  case deferredCloseApply v => exact event (deferredClosePeriod v) rfl (deferredClosePeriod_sound v k)
  case winddownCompletion => exact event winddownPeriod rfl (winddownPeriod_sound k)
  case resetAssert => exact settled _ rfl (assertReset_sound s)
  case resetRelease straps senses => exact settled _ rfl (endReset_sound straps senses k reset)
  all_goals cases h

end Sys2Proof.Machine

open Sys2Proof Sys2Proof.Machine

/-- Settles O56: field periods and resets keep the rules by themselves (`exec_moving_sound`), and every other command moves
no output and defers each close that a pump above idle blocks (`exec_waterGoes`). -/
theorem waterStaysSound : Obligations.WaterStaysSound := by
  unfold Obligations.WaterStaysSound
  intro s t sound reset taken
  unfold step at taken
  split at taken
  case h_1 => cases taken; exact sound
  case h_2 c rest queue =>
    have sound : WaterSound (s.setPending rest) := ⟨sound.1, sound.2, sound.3, sound.4, sound.5, sound.6⟩
    cases moves : movesOutputs c
    · exact (exec_waterGoes (opens := fun _ => True) moves (fun _ _ _ => trivial) taken).sound sound
    · exact exec_moving_sound moves sound reset taken

end

section
/-! Proofs: the field period, its ramps, deferred closes and frame. -/

namespace Sys2Proof.Machine

/-! ## Deferred closes (R98) -/

theorem takeFieldPeriod_wu (s : State) : (takeFieldPeriod s).wu = (waterPeriod s).wu := by
  rw [takeFieldPeriod, (winddownTest_beside (waterPeriod s)).1]

/-- The commands that are neither a field period nor a reset. -/
theorem movesOutputs_false {c : Instr} (field : c ≠ .fieldPeriod) (apply : ∀ v, c ≠ .deferredCloseApply v)
    (completion : c ≠ .winddownCompletion) (assert : c ≠ .resetAssert)
    (release : ∀ straps senses, c ≠ .resetRelease straps senses) : movesOutputs c = false := by
  cases c
  case fieldPeriod => exact absurd rfl field
  case deferredCloseApply => exact absurd rfl (apply _)
  case winddownCompletion => exact absurd rfl completion
  case resetAssert => exact absurd rfl assert
  case resetRelease => exact absurd rfl (release _ _)
  all_goals rfl

/-- The row of a deferred close that goes through is the field period (log entry 5). -/
theorem deferredClosePeriod_closes {v : Fin 192} {s : State} (h : closesAtPeriod v s = true) :
    deferredClosePeriod v s = takeFieldPeriod s := if_pos h

/-- The row of a close that no field period would let through does nothing (log entry 5). -/
theorem deferredClosePeriod_waits {v : Fin 192} {s : State} (h : closesAtPeriod v s = false) :
    deferredClosePeriod v s = s := if_neg (by rw [h]; exact Bool.false_ne_true)

/-- A deferred close goes through exactly when the field period takes it out of the set (R98). -/
theorem closesAtPeriod_eq (v : Fin 192) (s : State) : closesAtPeriod v s =
    (s.wu.deferred.getLsbD v && !(takeFieldPeriod s).wu.deferred.getLsbD v) := by
  rw [takeFieldPeriod_wu, (waterPeriod_images s v.isLt).1, closesAtPeriod]
  cases s.wu.deferred.getLsbD v <;> rfl

/-! ## Caps and ramps (R101, R104) -/

/-- Action code 1 is DERATE (R121). -/
theorem ofCode_derate (n : Nat) : InterlockAction.ofCode n = some .derate ↔ n = 1 := by
  match n with
  | 0 | 1 | 2 | 3 => decide
  | n + 4 => simp [InterlockAction.ofCode]

/-- The derate term is the lowest of the levels of the matched DERATE entries, and 1,000 (R104). -/
theorem derateTerm_eq (s : State) : derateTerm s =
    (((List.range 8).filter fun e => s.gu.matched.getLsbD e && decide (s.ls.table.entryAction e = 1)).map
      s.ls.table.derateLevel).foldl min 1000 := by
  rw [List.foldl_map, List.foldl_filter]
  simp only [derateTerm, LimitTable.hasAction, ofCode_derate]

/-- The effective cap is the lowest of max speed, wind cap, deadhead cap and the matched derate levels (R101). -/
theorem effectiveCap_eq (s : State) (p : Nat) : effectiveCap s p =
    ([s.ls.table.maxSpeed p, windCapOf s p, deadheadCap s p] ++
      ((List.range 8).filter fun e => s.gu.matched.getLsbD e && decide (s.ls.table.entryAction e = 1)).map
        s.ls.table.derateLevel).foldl min 1000 := by
  rw [List.foldl_append, effectiveCap, derateTerm_eq]
  generalize ((List.range 8).filter _).map _ = levels
  have lowest : ∀ a b : Nat, levels.foldl min (min a b) = min a (levels.foldl min b) := fun a b => List.foldl_assoc
  rw [show [s.ls.table.maxSpeed p, windCapOf s p, deadheadCap s p].foldl min 1000 =
    min (min (min (s.ls.table.maxSpeed p) (windCapOf s p)) (deadheadCap s p)) 1000 by simp only [List.foldl]; omega, lowest]
  omega

/-! ## The bits of a frame (R113, R114) -/

theorem bitsOfBytes_append (x y : List Byte) : bitsOfBytes (x ++ y) = bitsOfBytes x ++ bitsOfBytes y :=
  List.flatMap_append

theorem bitsOfBytes_flatMap {α : Type} (f : α → List Byte) (xs : List α) :
    bitsOfBytes (xs.flatMap f) = xs.flatMap fun x => bitsOfBytes (f x) := List.flatMap_assoc

/-- A 16-bit field is sent most significant bit first. -/
theorem bitsOfBytes_halfBytes (h : Half) : bitsOfBytes (halfBytes h) = msbFirst 16 h.toNat := sampleBits_eq h

/-- A 16-bit field sends a number modulo 65,536. -/
theorem msbFirst_ofNat (width n : Nat) : msbFirst width (BitVec.ofNat width n).toNat = msbFirst width n := by
  refine List.map_congr_left fun k mem => ?_
  have lt : width - 1 - k < width := by have := List.mem_range.mp mem; omega
  rw [BitVec.toNat_ofNat, Nat.testBit_mod_two_pow, decide_eq_true lt, Bool.true_and]

/-- A bank of a valve image is sent with its highest valve first. -/
theorem bitsOfBytes_bank (image : BitVec 192) (b : Nat) : bitsOfBytes (wordBytesMsb (bankOf image b)) =
    (List.range 32).map fun k => image.getLsbD (32 * b + (31 - k)) := by
  have byte : ∀ i < 4, byteBits (wordByte (bankOf image b) i) =
      (List.range 8).map fun k => image.getLsbD (32 * b + (8 * i + (7 - k))) := fun i lt =>
    List.map_congr_left fun k mem => by
      have := List.mem_range.mp mem
      rw [wordByte, bankOf, BitVec.getLsbD_extractLsb', BitVec.getLsbD_extractLsb', decide_eq_true (by omega),
        decide_eq_true (by omega), Bool.true_and, Bool.true_and]
  have bytes : bitsOfBytes (wordBytesMsb (bankOf image b)) = byteBits (wordByte (bankOf image b) 3) ++
      (byteBits (wordByte (bankOf image b) 2) ++ (byteBits (wordByte (bankOf image b) 1) ++
        (byteBits (wordByte (bankOf image b) 0) ++ []))) := rfl
  rw [bytes, byte 3 (by decide), byte 2 (by decide), byte 1 (by decide), byte 0 (by decide)]
  rfl

/-- The speeds of a composed frame are the outputs, as 16-bit fields (R113). -/
theorem speeds_compose (count : Byte) (applied : BitVec 192) (output : Vector Nat 16) :
    (FieldFrame.compose count applied output).speeds.toList = output.toList.map (BitVec.ofNat 16) := by
  have same : (FieldFrame.compose count applied output).speeds = output.map (BitVec.ofNat 16) :=
    vector_ext_fin fun p => by
      rw [Fin.getElem_fin, Fin.getElem_fin, Vector.getElem_map]
      exact getElem_tabulate _ p.val p.isLt
  rw [same, Vector.toList_map]

/-- The bits between sync word and check code: count, banks and speeds (R113, section 11.5). -/
theorem bitsOfBytes_fieldBody (count : Byte) (applied : BitVec 192) (output : Vector Nat 16) :
    bitsOfBytes (fieldBody count applied (FieldFrame.compose count applied output).speeds) =
      msbFirst 8 count.toNat ++
        (List.range 6).flatMap (fun b => (List.range 32).map (fun k => applied.getLsbD (32 * b + (31 - k)))) ++
        output.toList.flatMap (msbFirst 16) := by
  rw [fieldBody, bitsOfBytes_append, bitsOfBytes_append, bitsOfBytes_flatMap, bitsOfBytes_flatMap, speeds_compose,
    List.flatMap_map]
  simp only [bitsOfBytes_bank, bitsOfBytes_halfBytes, msbFirst_ofNat]
  rfl

/-- The bits of a composed frame: sync word, body and the check code of the body (R113, R189). -/
theorem bits_compose (count : Byte) (applied : BitVec 192) (output : Vector Nat 16) :
    let body := bitsOfBytes (fieldBody count applied (FieldFrame.compose count applied output).speeds)
    (FieldFrame.compose count applied output).bits = msbFirst 16 0xF52A ++ body ++ msbFirst 16 (crc16Bits body).toNat := by
  dsimp only
  rw [FieldFrame.bits, bitsOfBytes_append, bitsOfBytes_append, bitsOfBytes_halfBytes, bitsOfBytes_halfBytes, ← crc16_eq]
  rfl

end Sys2Proof.Machine

open Sys2Proof Sys2Proof.Machine

/-- Settles O47: the ramps by the four terms of the cap, the levels of the link, and the bits of the frame. -/
theorem fieldPeriodRampsPumps : Obligations.FieldPeriodRampsPumps := by
  unfold Obligations.FieldPeriodRampsPumps
  refine ⟨fun s out => ?_, fun f => ⟨fun _ _ => FieldLink.levels_bit f, fun _ => FieldLink.levels_rest f⟩,
    fun count applied output => ?_⟩
  · have others := winddownTest_others (s := s) (w := waterPeriod s) rfl rfl rfl rfl rfl
    obtain ⟨-, lu, -⟩ := winddownTest_beside (waterPeriod s)
    rw [← takeFieldPeriod] at others lu
    refine completes_event (f := takeFieldPeriod) rfl out
      ⟨fun p => ?_, ?_, ?_, ?_, ?_, fun other => ?_, (settle_lu _).trans lu, others⟩
    · dsimp only
      rw [settle_wu, takeFieldPeriod_wu, waterPeriod_output, rampedOutput, rampStep, pumpTarget, effectiveCap_eq,
        deadheadCap]
      simp only [shortHeader_iff, fallingRate, windCapOf]
    iterate 4 (rw [settle_wu, takeFieldPeriod_wu]; rfl)
    · have same : takeFieldPeriod s = waterPeriod s :=
        winddownTest_unmet fun done => other ((winddownDone_iff _).mp done).1
      obtain ⟨sq, au, fetch, path⟩ := goesOn_settle (s := s) (w := waterPeriod s) rfl rfl rfl
      rw [same]
      exact ⟨⟨sq, au⟩, fetch, path⟩
  · dsimp only
    rw [← bitsOfBytes_fieldBody]
    exact bits_compose count applied output

/-- Settles O48: the images after a field period, its own row, and every other command (`exec_waterGoes`). -/
theorem deferredClosesApplied : Obligations.DeferredClosesApplied := by
  unfold Obligations.DeferredClosesApplied
  refine ⟨fun s out => ?_, fun s v out => ?_, fun c s t taken field apply completion assert release => ?_⟩
  · refine completes_event (f := takeFieldPeriod) rfl out fun v => ?_
    obtain ⟨deferred, applied⟩ := waterPeriod_images s v.isLt
    have blocking := hasBlocking_rampPumps s v
    simp only [shortHeader_iff] at blocking
    dsimp only
    rw [settle_wu, takeFieldPeriod_wu, ← blocking, deferred, applied]
    simp only [Bool.and_eq_true, Bool.or_eq_true, Bool.not_eq_true', and_self]
  · refine completes_event (f := takeFieldPeriod) rfl out ⟨fun before after => ?_, fun stays => ?_⟩
    · have closes : closesAtPeriod v s = true := by
        rw [closesAtPeriod_eq, before, show (takeFieldPeriod s).wu.deferred.getLsbD v = false from after]; rfl
      have row : exec (.deferredCloseApply v) s = answer (outOfReset (deferredClosePeriod v) s) := rfl
      rw [row, outOfReset_released _ s out, deferredClosePeriod_closes closes]; rfl
    · have waits : closesAtPeriod v s = false := by
        rw [closesAtPeriod_eq]
        rcases stays with never | still
        · rw [never]; rfl
        · rw [show (takeFieldPeriod s).wu.deferred.getLsbD v = true from still]; exact Bool.and_false _
      refine completes_event (f := deferredClosePeriod v) rfl out ?_
      rw [deferredClosePeriod_waits waits]
      exact nothingDone_settle s
  · have goes := exec_waterGoes (opens := fun v => (c = .framePeriod ∨ c = .starvedResume) ∧ opensNext s v)
      (movesOutputs_false field apply completion assert release) (fun frame _ opened => ⟨frame, opened⟩) taken
    refine ⟨goes.output, fun v deferred applied wanted closed => ?_⟩
    have wait := goes.waits v (fun ⟨frame, e, mem, due, opened⟩ => closed frame e mem due opened)
      ⟨deferred, applied, wanted⟩
    exact ⟨wait.deferred, wait.applied, wait.wanted⟩

end

section
/-! Proofs: the closes of a wind-down entry, and the events that begin a wind-down. -/

namespace Sys2Proof.Machine

/-! ## The closes in ascending order (R97, R110) -/

/-- The close of valve v at a wind-down entry is blocked: some pump above idle has v on its header, and fewer than min-open
header valves above it in number are wanted open. -/
def closeBlocked (t : LimitTable) (x : WaterUnit) (v : Nat) : Prop :=
  ∃ p : Fin 16, t.idleSpeed p < x.output[p] ∧ t.onHeader p v = true ∧
    (List.range 192).countP (fun w => decide (v < w) && x.wanted.getLsbD w && t.onHeader p w) < t.minOpen p

/-- From the water `x` a wind-down entry has left `y`: beside the valves deferred before, those wanted open are deferred
whose closes are blocked, and no other valve is applied open. -/
def DefersHighest (t : LimitTable) (x y : WaterUnit) : Prop := ∀ v : Fin 192,
  (y.deferred.getLsbD v = true ↔
    (x.deferred.getLsbD v = true ∨ (x.wanted.getLsbD v = true ∧ closeBlocked t x v))) ∧
  (y.applied.getLsbD v = true ↔
    (x.deferred.getLsbD v = true ∨ (x.wanted.getLsbD v = true ∧ closeBlocked t x v)))

/-- The closes of the valves below n, in ascending order. -/
def closesBelow (n : Nat) (s : State) : State := (List.range n).foldl (fun s v => wantClose v s) s

theorem closesBelow_succ (n : Nat) (s : State) : closesBelow (n + 1) s = wantClose n (closesBelow n s) := by
  rw [closesBelow, List.range_succ, List.foldl_append]; rfl

theorem closesBelow_wanted (n : Nat) (s : State) (w : Nat) :
    (closesBelow n s).wu.wanted.getLsbD w = (s.wu.wanted.getLsbD w && decide (n ≤ w)) := by
  rw [closesBelow, closes_wanted]
  simp only [List.mem_range, not_lt]

theorem closesBelow_ls (n : Nat) (s : State) : (closesBelow n s).ls = s.ls := by
  rw [closesBelow, closes_frame, ls_setWu]

/-- The close of valve n, after those below it, is blocked by the count of the valves wanted open above it. -/
theorem hasBlocking_closesBelow (n : Nat) (s : State) :
    hasBlocking (wantedClosed n (closesBelow n s)) n = true ↔ closeBlocked s.ls.table s.wu n := by
  have output : (closesBelow n s).wu.output = s.wu.output := (closes_speeds (List.range n) s).2.1
  have above : ∀ w, (decide (w ≠ n) && (s.wu.wanted.getLsbD w && decide (n ≤ w))) =
      (decide (n < w) && s.wu.wanted.getLsbD w) := fun w => by
    rw [Bool.and_comm (s.wu.wanted.getLsbD w), ← Bool.and_assoc, ← Bool.decide_and]
    exact congrArg (· && _) (decide_eq_decide.mpr (by omega))
  rw [hasBlocking_wantedClosed, closesBelow_ls, output]
  simp only [closesBelow_wanted, above]
  rfl

/-- After the closes below n, a valve below n that was wanted open is deferred if its close is blocked, and applied closed if
it is not; the other valves are as they were. -/
theorem closesBelow_images {n : Nat} (le : n ≤ 192) (s : State) (w : Fin 192) :
    ((closesBelow n s).wu.deferred.getLsbD w = true ↔ s.wu.deferred.getLsbD w = true ∨
      (w.val < n ∧ s.wu.wanted.getLsbD w = true ∧ closeBlocked s.ls.table s.wu w)) ∧
    ((closesBelow n s).wu.applied.getLsbD w = true ↔ s.wu.applied.getLsbD w = true ∧
      (w.val < n → s.wu.wanted.getLsbD w = true → closeBlocked s.ls.table s.wu w)) := by
  induction n with
  | zero => simp [closesBelow]
  | succ n ih =>
    obtain ⟨deferred, applied⟩ := ih (by omega)
    have same : w = ⟨n, le⟩ ↔ w.val = n := Fin.ext_iff
    have step : w.val < n + 1 ↔ w.val < n ∨ w.val = n := by omega
    rw [closesBelow_succ, step]
    by_cases wanted : s.wu.wanted.getLsbD n = true
    · have open_ : (closesBelow n s).wu.wanted.getLsbD n = true := by simp [closesBelow_wanted, wanted]
      obtain ⟨closed, joined⟩ := wantClose_images (v := ⟨n, le⟩) open_ (hasBlocking_closesBelow n s) w
      rw [closed, joined, deferred, applied, ne_eq, same]
      by_cases this : w.val = n
      · simp [this, wanted]
      · simp [this]
    · have shut : (closesBelow n s).wu.wanted.getLsbD n = false := by simp [closesBelow_wanted, wanted]
      rw [wantClose_closed shut, deferred, applied]
      by_cases this : w.val = n
      · simp [this, wanted]
      · simp [this]

/-- The wind-down entry of sound images defers exactly the valves whose closes are blocked (R97, R110). -/
theorem waterWinddown_defers {s : State} (images : ImagesSound s) :
    DefersHighest s.ls.table s.wu (waterWinddown s).wu := fun v => by
  obtain ⟨deferred, applied⟩ :=
    closesBelow_images le_rfl (s.setWu { s.wu with commanded := Vector.replicate 16 0 }) v
  obtain ⟨waiting, open_⟩ := (imagesSound_iff s).mp images v v.isLt
  rw [Bool.eq_iff_iff, Bool.and_eq_true, Bool.not_eq_true', ← Bool.not_eq_true] at waiting
  rw [wu_setWu, ls_setWu] at deferred applied
  have blocked : closeBlocked s.ls.table { s.wu with commanded := Vector.replicate 16 0 } v ↔
      closeBlocked s.ls.table s.wu v := Iff.rfl
  rw [blocked] at deferred applied
  have lt := v.isLt
  refine ⟨deferred.trans ?_, applied.trans ?_⟩
  · simp only [lt, true_and]
  · rw [waiting]
    by_cases wanted : s.wu.wanted.getLsbD v = true
    · simp only [lt, wanted, open_ wanted, true_imp_iff, true_and, not_true_eq_false, and_false, false_or]
    · simp only [wanted, Bool.false_eq_true, false_imp_iff, imp_true_iff, and_true, not_false_eq_true, false_and, or_false]

theorem windDown_defers (kind : WinddownKind) {s u : State} (images : ImagesSound s) (wu : u.wu = s.wu)
    (ls : u.ls = s.ls) : DefersHighest s.ls.table s.wu (windDown kind u).wu := by
  rw [windDown_wu, ← wu, ← ls]
  exact waterWinddown_defers (by rw [ImagesSound, wu]; exact images)

/-- A fault of a live show begins a wind-down (R22). -/
theorem takeFault_defers (cause : FaultCause) {s u : State} (images : ImagesSound s) (wu : u.wu = s.wu)
    (ls : u.ls = s.ls) (live : u.sq.state.live = true) : DefersHighest s.ls.table s.wu (takeFault cause u).wu := by
  rw [takeFault_live cause live, wu_raise]
  exact windDown_defers .fault images wu ls

/-! ## A TRIP entry matched at an edge event (R123, R126) -/

/-- The transitions of a set of entries, in the order of a list. -/
def transitions (entries : Byte) (es : List (Fin 8)) (s : State) : State :=
  es.foldl (fun (t : State) (e : Fin 8) => if entries.getLsbD e then handTransition e t else t) s

theorem transitions_cons (entries : Byte) (e : Fin 8) (es : List (Fin 8)) (s : State) :
    transitions entries (e :: es) s = transitions entries es (if entries.getLsbD e then handTransition e s else s) := rfl

theorem ofCode_trip (n : Nat) : InterlockAction.ofCode n = some .trip ↔ n = 3 := by
  match n with
  | 0 | 1 | 2 | 3 => decide
  | n + 4 => simp [InterlockAction.ofCode]

theorem handTransition_trip {e : Fin 8} {s : State} (trip : s.ls.table.entryAction e = 3) :
    handTransition e s = takeFault (.interlockTrip e) (raise .interlock s) := by
  rw [handTransition, (ofCode_trip _).mpr trip]

/-- A transition of an entry that does not trip leaves a live show live, and its water as it is (R127 to R130). -/
theorem handTransition_live {e : Fin 8} {s : State} (other : s.ls.table.entryAction e ≠ 3)
    (live : s.sq.state.live = true) : (handTransition e s).wu = s.wu ∧ (handTransition e s).sq.state.live = true := by
  have held : (holdEntryMatched (raise .interlock s)).sq.state.live = true := by
    unfold holdEntryMatched
    split
    · rfl
    · rfl
    · rfl
    all_goals exact live
  unfold handTransition
  dsimp only
  split
  · exact ⟨by rw [holdEntryMatched_frame]; rfl, held⟩
  · next trip => exact absurd ((ofCode_trip _).mp trip) other
  all_goals exact ⟨rfl, live⟩

/-- A fault of a show that winds down leaves its water as it is (R24). -/
theorem takeFault_down (cause : FaultCause) {s : State} (down : s.sq.state = .winddown) :
    (takeFault cause s).wu = s.wu ∧ (takeFault cause s).sq.state = .winddown := by
  unfold takeFault
  rw [down]
  dsimp only
  split <;> exact ⟨rfl, down⟩

/-- A transition finds a show that winds down winding down, and leaves its water as it is (R22, R24). -/
theorem handTransition_down (e : Fin 8) {s : State} (down : s.sq.state = .winddown) :
    (handTransition e s).wu = s.wu ∧ (handTransition e s).sq.state = .winddown := by
  unfold handTransition
  dsimp only
  split
  · exact ⟨by rw [holdEntryMatched_frame]; rfl, by unfold holdEntryMatched; split <;> simp_all⟩
  · exact takeFault_down _ (s := raise .interlock s) down
  all_goals exact ⟨rfl, down⟩

theorem transitions_down (entries : Byte) (es : List (Fin 8)) {s : State} (down : s.sq.state = .winddown) :
    (transitions entries es s).wu = s.wu := by
  induction es generalizing s with
  | nil => rfl
  | cons e es ih =>
    rw [transitions_cons]
    split
    · obtain ⟨wu, still⟩ := handTransition_down e down
      exact (ih still).trans wu
    · exact ih down

/-- Among the transitions of a live show the first of a TRIP entry begins the wind-down, and the others leave the water. -/
theorem transitions_defer {entries : Byte} {es : List (Fin 8)} {s u : State} (images : ImagesSound s) (wu : u.wu = s.wu)
    (ls : u.ls = s.ls) (live : u.sq.state.live = true)
    (trip : ∃ e ∈ es, entries.getLsbD e = true ∧ s.ls.table.entryAction e = 3) :
    DefersHighest s.ls.table s.wu (transitions entries es u).wu := by
  induction es generalizing u with
  | nil => obtain ⟨e, mem, -⟩ := trip; cases mem
  | cons e es ih =>
    rw [transitions_cons]
    have later : ¬(entries.getLsbD e = true ∧ s.ls.table.entryAction e = 3) →
        ∃ x ∈ es, entries.getLsbD x = true ∧ s.ls.table.entryAction x = 3 := fun other => by
      obtain ⟨x, mem, trips⟩ := trip
      rcases List.mem_cons.mp mem with rfl | mem
      · exact absurd trips other
      · exact ⟨x, mem, trips⟩
    split
    case isTrue moves =>
      by_cases trips : s.ls.table.entryAction e = 3
      · rw [handTransition_trip (by rw [ls]; exact trips), transitions_down]
        · exact takeFault_defers _ images wu ls live
        · rw [takeFault_live_sq (s := raise .interlock u) _ live]; rfl
      · obtain ⟨same, still⟩ := handTransition_live (s := u) (by rw [ls]; exact trips) live
        exact ih (same.trans wu) ((handTransition_showOnly e u).ls.trans ls) still (later fun h => trips h.2)
    case isFalse stays => exact ih wu ls live (later fun h => stays h.1)

/-- A bit put to the level it does not have is turned over. -/
theorem bitPut_flip {n : Nat} (x : BitVec n) {i : Nat} (lt : i < n) {b : Bool} (h : b ≠ x.getLsbD i) :
    bitPut x i b = x ^^^ BitVec.twoPow n i := by
  refine BitVec.eq_of_getLsbD_eq fun j _ => ?_
  rw [getLsbD_bitPut x i j b lt, BitVec.getLsbD_xor, BitVec.getLsbD_twoPow]
  by_cases same : i = j
  · subst same
    cases b <;> simp_all
  · simp [same]

/-- An edge event of a live show at which a TRIP entry becomes matched (R120, R123). -/
theorem timerExpires_defers {s : State} {i : Fin 16} {e : Fin 8} (images : ImagesSound s) (live : s.sq.state.live = true)
    (running : s.gu.timers[i] ≠ none) (edge : s.gu.raw.getLsbD i ≠ s.gu.debounced.getLsbD i)
    (valid : s.ls.tableState = .valid)
    (holds : s.ls.table.patternHolds e (s.gu.debounced ^^^ BitVec.twoPow 16 i) (some (i, s.gu.raw.getLsbD i)) = true)
    (unmatched : s.gu.matched.getLsbD e = false) (trip : s.ls.table.entryAction e = 3) :
    DefersHighest s.ls.table s.wu (timerExpires i s).wu := by
  have timer : s.gu.timers[i].isSome = true := Option.isSome_iff_ne_none.mpr running
  rw [timerExpires, if_pos timer, expireDebounce]
  dsimp only
  rw [if_neg edge, evaluateEdge, takeSets]
  have wu : ∀ b t, (handHoldEnd b t).wu = t.wu := fun b t => by
    unfold handHoldEnd; split
    · rw [noHoldEntryMatched_frame]; rfl
    · rfl
  rw [wu]
  refine transitions_defer (s := s) images rfl rfl live ⟨e, List.mem_finRange e, ?_, trip⟩
  have flipped : bitPut s.gu.debounced i (s.gu.raw.getLsbD i) = s.gu.debounced ^^^ BitVec.twoPow 16 i :=
    bitPut_flip _ i.isLt edge
  rw [BitVec.getLsbD_and, BitVec.getLsbD_not, holdingSet, getLsbD_bitsOf, decide_eq_true e.isLt]
  simp only [gu_setGu, unmatched, entryHolds, ls_setGu, LimitStore.valid, valid, flipped, holds, decide_true, Bool.true_and,
    Bool.not_false]

end Sys2Proof.Machine

open Sys2Proof Sys2Proof.Machine

/-- Settles O17: each event reaches `windDown` with the water as it stood, whose closes `waterWinddown_defers` follows. -/
theorem winddownDefersHighestValves : Obligations.WinddownDefersHighestValves := by
  unfold Obligations.WinddownDefersHighestValves
  intro s images out
  dsimp only
  refine ⟨fun burst path live => ?_, fun starved limit => ?_, fun clock starved limit few due => ?_,
    fun clock running last plays => ?_, fun e later clock running limit plays table due last => ?_,
    fun i e live timer edge valid holds unmatched trip => ?_⟩
  · refine completes_accepted rfl path (stateThenArg_of_state true live) (windDown_showOnly .normal s).pu (windDown_ru _ s)
      fun t done => ?_
    rw [done.wu]
    exact windDown_defers .normal images rfl rfl
  · refine completes_event (f := starveLimitTest) rfl out ?_
    rw [starveLimitTest, if_pos ⟨starved, limit⟩, settle_wu]
    exact takeFault_defers .starveLimit images rfl rfl (by rw [starved]; rfl)
  · have fails : resumeTest s = false := by
      rw [Bool.eq_false_iff, ne_eq, resumeTest_iff]; exact fun h => h.elim (by omega) due
    refine completes_framePeriod out clock fun t done => ?_
    rw [done.wu, reported_counts starved fails, countStarved, starveLimitTest, if_pos ⟨starved, limit⟩]
    exact takeFault_defers .starveLimit images rfl rfl (by rw [sq_setSq, starved]; rfl)
  · refine completes_framePeriod out clock fun t done => ?_
    rw [done.wu, reported_running running plays, advance_limit (s := dropFrame s) last]
    exact takeFault_defers .positionLimit images rfl rfl (by rw [show (dropFrame s).sq.state = .running from running]; rfl)
  · have due' : e.due ≤ (moved (dropFrame s)).sq.position := (due_moved (s := dropFrame s) limit).mpr due
    refine completes_framePeriod out clock fun t done => ?_
    rw [done.wu, reported_running running plays, advance_moves (s := dropFrame s) limit,
      show (dropFrame s).sq.table = e :: later from table, releaseDue_end due' last, afterReleases, if_pos rfl]
    exact windDown_defers .normal images rfl rfl
  · refine completes_event (f := timerExpires i) rfl out ?_
    rw [settle_wu]
    exact timerExpires_defers images live timer edge valid holds unmatched trip

end

section
/-! Proofs: the debounce timers, the pulses of WIND_IN and the wind gate. -/

namespace Sys2Proof.Machine

/-! ## The end of the event -/

/-- What the end of an event leaves of a state. -/
structure EventEnd (u t : State) : Prop where
  sq : t.sq = u.sq
  au : t.au = u.au
  wu : t.wu = u.wu
  lu : t.lu = u.lu
  gu : t.gu = u.gu
  ls : t.ls = u.ls
  ground : GroundKept u t
  fetch : FetchKept u t
  path : PathKept u t
  report : ReportKept u t

theorem eventEnd (u : State) : EventEnd u (settle u) :=
  ⟨settle_sq u, settle_au u, settle_wu u, settle_lu u, settle_gu u, settle_ls u,
    groundKept_of (settle_inReset u) (settle_mem u), fetchKept_settle rfl, pathKept_settle rfl, reportKept_settle rfl⟩

theorem EventEnd.causes {u t : State} (h : EventEnd u t) : t.ru.pending = u.ru.pending := by rw [h.report]

/-! ## Limits the guard unit takes (R118) -/

theorem LimitStore.debounce_eq (x : LimitStore) :
    x.debounce = if x.tableState = .valid then x.table.debounceMs else 255 := by
  simp [LimitStore.debounce, LimitStore.valid]

theorem LimitStore.gate_eq (x : LimitStore) :
    x.gate = if x.tableState = .valid then x.table.gateLength else 10 := by
  simp [LimitStore.gate, LimitStore.valid]

/-! ## Debounce timers (R119) -/

theorem changeLevel_changed {i : Fin 16} {high : Bool} {s : State} (change : s.gu.raw.getLsbD i ≠ high) :
    changeLevel i high s = takeRawLevel i high s := if_neg change

/-- One level of a set of levels after one of them has been put. -/
theorem getLsbD_bitPut_fin (x : Half) (i j : Fin 16) (b : Bool) :
    (bitPut x i b).getLsbD j = if j = i then b else x.getLsbD j := by
  rw [getLsbD_bitPut x i j b i.isLt]
  exact if_congr (by rw [← Fin.ext_iff, eq_comm]) rfl rfl

/-- One timer after one of them has been set. -/
theorem timers_set (x : Vector (Option Byte) 16) (i j : Fin 16) (v : Option Byte) :
    (x.set i.val v i.isLt)[j] = if j = i then v else x[j] := by
  rw [getFin_set]; exact if_congr eq_comm rfl rfl

/-! ## The wind band (R132) -/

/-- The band rises to the highest band above it whose threshold is reached. -/
theorem raisedBand_top {t : LimitTable} {band b : Fin 4} {count : Nat} (reached : band < b ∧ t.windUp b ≤ count)
    (top : ∀ c : Fin 4, band < c ∧ t.windUp c ≤ count → c ≤ b) : raisedBand t band count = some b := by
  have above : ∀ c : Fin 4, b < c → ¬(band < c ∧ t.windUp c ≤ count) := fun c lt r => absurd (top c r) (not_le.mpr lt)
  have skip : ∀ (c : Fin 4) (bs : List (Fin 4)), b < c →
      (c :: bs).find? (fun b => decide (band < b ∧ t.windUp b ≤ count)) =
        bs.find? (fun b => decide (band < b ∧ t.windUp b ≤ count)) :=
    fun c bs lt => List.find?_cons_of_neg (by simpa using above c lt)
  have stop : ∀ bs : List (Fin 4),
      (b :: bs).find? (fun b => decide (band < b ∧ t.windUp b ≤ count)) = some b :=
    fun bs => List.find?_cons_of_pos (decide_eq_true reached)
  unfold raisedBand
  match b with
  | 0 => exact absurd reached.1 (Fin.not_lt_zero band)
  | 1 => rw [skip 3 _ (by decide), skip 2 _ (by decide), stop]
  | 2 => rw [skip 3 _ (by decide), stop]
  | 3 => rw [stop]

theorem raisedBand_none {t : LimitTable} {band : Fin 4} {count : Nat}
    (unreached : ∀ b : Fin 4, ¬(band < b ∧ t.windUp b ≤ count)) : raisedBand t band count = none := by
  rw [raisedBand, List.find?_eq_none]
  exact fun b _ => by simpa using unreached b

/-- With no threshold reached the band falls by one when the count is below its down threshold, and else stands. -/
theorem nextBand_unraised {t : LimitTable} {band : Fin 4} {count : Nat} (h : raisedBand t band count = none) :
    (nextBand t band count).val =
      if 0 < band.val ∧ count < t.windDown band then band.val - 1 else band.val := by
  have lower : ∀ b : Fin 4, 0 < b → (b - 1).val = b.val - 1 := by decide
  rw [nextBand, h]
  dsimp only
  by_cases falls : 0 < band ∧ count < t.windDown band
  · rw [if_pos falls, lower band falls.1]; exact (if_pos falls).symm
  · rw [if_neg falls]; exact (if_neg falls).symm

theorem bandAtExpiry_invalid {s : State} (h : s.ls.tableState ≠ .valid) : bandAtExpiry s = 3 := by
  simp [bandAtExpiry, LimitStore.valid, h]

theorem bandAtExpiry_valid {s : State} (h : s.ls.tableState = .valid) :
    bandAtExpiry s = nextBand s.ls.table s.gu.band s.gu.pulses.toNat := by
  simp [bandAtExpiry, LimitStore.valid, h]

/-- The guard unit after a gate expiry: the count recorded and cleared, the band set and the next gate started (R132). -/
def gateExpired (s : State) : GuardUnit :=
  { s.gu with lastWind := s.gu.pulses, band := bandAtExpiry s, pulses := 0, gate := some s.ls.gate }

/-- WIND is raised exactly when the band changes (R132). -/
theorem expireGate_eq (s : State) : expireGate s =
    (s.setGu (gateExpired s)).setRu (if bandAtExpiry s = s.gu.band then s.ru else (raise .wind s).ru) := by
  unfold expireGate; dsimp only; split <;> rfl

theorem gateExpires_running {s : State} (h : s.gu.gate ≠ none) : gateExpires s = expireGate s :=
  if_pos (Option.isSome_iff_ne_none.mpr h)

end Sys2Proof.Machine

open Sys2Proof Sys2Proof.Machine

/-- Settles O51: a changed level restarts or stops its own timer. -/
theorem senseLevelStartsTimer : Obligations.SenseLevelStartsTimer := by
  unfold Obligations.SenseLevelStartsTimer
  intro s i high out change
  refine completes_event (f := changeLevel i high) rfl out ?_
  rw [changeLevel_changed change]
  have done := eventEnd (takeRawLevel i high s)
  revert done
  generalize settle (takeRawLevel i high s) = t
  intro done
  rw [done.gu]
  refine ⟨fun j => getLsbD_bitPut_fin _ i j high, fun j => ?_, rfl, ⟨done.sq, done.au⟩, done.wu, done.lu, done.ls,
    done.ground.of_eq rfl rfl, done.fetch.of_eq rfl, done.path.of_eq rfl, done.report.of_eq rfl⟩
  refine (timers_set s.gu.timers i j _).trans ?_
  rw [LimitStore.debounce_eq]

/-- Settles O53: the pulses saturate, and an expiry sets the band by the thresholds. -/
theorem windGateSetsBand : Obligations.WindGateSetsBand := by
  unfold Obligations.WindGateSetsBand
  refine ⟨fun s out => ?_, fun s out running => ?_⟩
  · refine completes_event (f := countPulse) rfl out ?_
    have done := eventEnd (countPulse s)
    revert done
    generalize settle (countPulse s) = t
    intro done
    rw [done.gu]
    exact ⟨toNat_saturate16 s.gu.pulses 1, rfl, ⟨done.sq, done.au⟩, done.wu, done.lu, done.ls, done.ground.of_eq rfl rfl,
      done.fetch.of_eq rfl, done.path.of_eq rfl, done.report.of_eq rfl⟩
  · refine completes_event (f := gateExpires) rfl out ?_
    rw [gateExpires_running running, expireGate_eq]
    have done := eventEnd ((s.setGu (gateExpired s)).setRu (if bandAtExpiry s = s.gu.band then s.ru else (raise .wind s).ru))
    revert done
    generalize settle _ = t
    intro done
    have gu : t.gu = gateExpired s := done.gu
    have band : t.gu.band = bandAtExpiry s := congrArg GuardUnit.band gu
    rw [band]
    refine ⟨?_, bandAtExpiry_invalid, fun valid => ⟨fun b reached top => ?_, fun unreached => ?_⟩, ?_,
      ⟨done.sq, done.au⟩, done.wu, done.lu, done.ls, done.ground.of_eq rfl rfl, done.fetch.of_eq rfl, done.path.of_eq rfl⟩
    · rw [gu, gateExpired, LimitStore.gate_eq]
    · rw [bandAtExpiry_valid valid, nextBand, raisedBand_top reached top]
    · rw [bandAtExpiry_valid valid]
      exact nextBand_unraised (raisedBand_none unreached)
    · by_cases same : bandAtExpiry s = s.gu.band
      · rw [if_pos same]; exact done.report.of_eq (if_pos same)
      · rw [if_neg same]; exact done.report.raised (if_neg same)

end

section
/-! Proofs: what the transitions of an evaluation hand on, and with them RELEASE_INTERLOCKS. -/

namespace Sys2Proof.Machine

/-! ## Holds and faults as changes of the sequencer (R18, R21) -/

/-- Action code 0 is HOLD (R121). -/
theorem ofCode_hold (n : Nat) : InterlockAction.ofCode n = some .hold ↔ n = 0 := by
  match n with
  | 0 | 1 | 2 | 3 => decide
  | n + 4 => simp [InterlockAction.ofCode]

/-- The sequencer after a HOLD entry has become matched (R18). -/
def Sequencer.heldByEntry (x : Sequencer) : Sequencer :=
  if x.state = .running ∨ x.state = .starved ∨ x.state = .held then
    { x with state := .held, holdInterlock := true, starveCount := x.countWhenHeld }
  else x

/-- The sequencer after no HOLD entry has remained matched (R18). -/
def Sequencer.holdEnded (x : Sequencer) : Sequencer :=
  if x.state = .held then { x with holdInterlock := false, state := if x.holdHost then .held else .running } else x

/-- Later faults are counted: the show is in TRIPPED or in fault wind-down (R21, R24). -/
def Sequencer.faulted (x : Sequencer) : Prop := x.state = .tripped ∨ (x.state = .winddown ∧ x.kind = .fault)

/-- The sequencer after n later faults (R21). -/
def Sequencer.countFaults (n : Nat) (x : Sequencer) : Sequencer :=
  { x with faultRecord := { x.faultRecord with
      secondary := BitVec.ofNat 8 (min 255 (x.faultRecord.secondary.toNat + n)) } }

theorem holdEntryMatched_eq (s : State) : holdEntryMatched s = s.setSq s.sq.heldByEntry := by
  unfold holdEntryMatched Sequencer.heldByEntry
  cases s.sq.state <;> simp

theorem noHoldEntryMatched_eq (s : State) : noHoldEntryMatched s = s.setSq s.sq.holdEnded := by
  unfold noHoldEntryMatched Sequencer.holdEnded
  split
  case h_1 held => split <;> simp_all
  all_goals simp_all

theorem Sequencer.heldByEntry_holdable {x : Sequencer} (h : x.state = .running ∨ x.state = .starved ∨ x.state = .held) :
    x.heldByEntry = { x with
      state := .held, holdInterlock := true, starveCount := if x.state = .starved then 0 else x.starveCount } := if_pos h

theorem Sequencer.heldByEntry_other {x : Sequencer} (h : ¬(x.state = .running ∨ x.state = .starved ∨ x.state = .held)) :
    x.heldByEntry = x := if_neg h

theorem Sequencer.heldByEntry_again (x : Sequencer) : x.heldByEntry.heldByEntry = x.heldByEntry := by
  by_cases h : x.state = .running ∨ x.state = .starved ∨ x.state = .held
  · rw [heldByEntry_holdable h, heldByEntry_holdable (.inr (.inr rfl))]; rfl
  · rw [heldByEntry_other h, heldByEntry_other h]

theorem Sequencer.heldByEntry_live {x : Sequencer} (h : x.state.live = true) : x.heldByEntry.state.live = true := by
  unfold heldByEntry; split
  · rfl
  · exact h

theorem Sequencer.heldByEntry_dead {x : Sequencer} (h : x.state.live = false) : x.heldByEntry = x :=
  heldByEntry_other (by rintro (k | k | k) <;> simp [k, ShowState.live] at h)

theorem Sequencer.holdEnded_other {x : Sequencer} (h : x.state ≠ .held) : x.holdEnded = x := if_neg h

theorem Sequencer.faulted_dead {x : Sequencer} (h : x.faulted) : x.state.live = false := by
  rcases h with tripped | ⟨down, -⟩
  · rw [tripped]; rfl
  · rw [down]; rfl

theorem Sequencer.not_held_of_dead {x : Sequencer} (h : x.state.live = false) : x.state ≠ .held :=
  fun held => by simp [held, ShowState.live] at h

theorem Sequencer.countFaults_zero (x : Sequencer) : x.countFaults 0 = x := by
  have small := x.faultRecord.secondary.isLt
  have same : min 255 (x.faultRecord.secondary.toNat + 0) = x.faultRecord.secondary.toNat := by omega
  rw [countFaults, same, BitVec.ofNat_toNat, BitVec.setWidth_eq]

theorem Sequencer.toNat_countFaults (n : Nat) (x : Sequencer) :
    (x.countFaults n).faultRecord.secondary.toNat = min 255 (x.faultRecord.secondary.toNat + n) := by
  simp only [countFaults, BitVec.toNat_ofNat]; omega

theorem Sequencer.countFaults_add (m n : Nat) (x : Sequencer) : (x.countFaults m).countFaults n = x.countFaults (m + n) := by
  have sum : min 255 ((x.countFaults m).faultRecord.secondary.toNat + n) =
      min 255 (x.faultRecord.secondary.toNat + (m + n)) := by rw [toNat_countFaults]; omega
  rw [countFaults, sum]; rfl

/-! ## Causes raised again -/

/-- The report unit after a cause has been raised (R182). -/
def ReportUnit.raised (c : Cause) (x : ReportUnit) : ReportUnit := { x with pending := bitInsert x.pending c.bit }

theorem ReportUnit.raised_again (c : Cause) (x : ReportUnit) : (x.raised c).raised c = x.raised c := by
  simp only [raised, bitInsert, BitVec.or_assoc, BitVec.or_self]

theorem ReportUnit.raised_comm (c d : Cause) (x : ReportUnit) : (x.raised c).raised d = (x.raised d).raised c := by
  simp only [raised, bitInsert, BitVec.or_assoc, BitVec.or_comm (BitVec.twoPow 9 c.bit)]

/-! ## Faults by show state (R22, R24) -/

theorem takeFault_counts (cause : FaultCause) {s : State} (h : s.sq.faulted) :
    takeFault cause s = s.setSq (s.sq.countFaults 1) := by
  unfold takeFault
  rcases h with tripped | ⟨down, fault⟩
  · rw [tripped]; rfl
  · rw [down, fault]; rfl

theorem takeFault_idle (cause : FaultCause) {s : State} (h : s.sq.state = .idle) :
    takeFault cause s = raise .fault (setShow .tripped (fillRecord cause s)) := by
  unfold takeFault; rw [h]

theorem takeFault_converts (cause : FaultCause) {s : State} (down : s.sq.state = .winddown) (normal : s.sq.kind = .normal) :
    takeFault cause s = raise .fault (lightConversion ((fillRecord cause s).setSq
      { (fillRecord cause s).sq with kind := .fault })) := by
  unfold takeFault; rw [down, normal]

/-- A show state that is not live and counts no faults is IDLE or in normal wind-down. -/
theorem Sequencer.idle_or_normal {x : Sequencer} (dead : ¬x.state.live = true) (unfaulted : ¬x.faulted) :
    x.state = .idle ∨ (x.state = .winddown ∧ x.kind = .normal) := by
  unfold faulted at unfaulted
  cases state : x.state <;> cases kind : x.kind <;> simp_all [ShowState.live]

/-- A first fault raises FAULT, and every later one is counted. -/
theorem takeFault_first (cause : FaultCause) {s : State} (h : ¬s.sq.faulted) :
    (takeFault cause s).sq.faulted ∧ (takeFault cause s).ru = s.ru.raised .fault := by
  by_cases live : s.sq.state.live = true
  · have tripped := takeFault_tripped cause live
    exact ⟨by rw [tripped.sq]; exact .inr ⟨rfl, rfl⟩, tripped.ru⟩
  · rcases Sequencer.idle_or_normal live h with idle | ⟨down, normal⟩
    · rw [takeFault_idle cause idle]; exact ⟨.inl rfl, rfl⟩
    · rw [takeFault_converts cause down normal]; exact ⟨.inr ⟨down, rfl⟩, rfl⟩

/-! ## Transitions that fault nothing, or are counted (R126) -/

/-- Entry e is in a set and has an action code. -/
def actsBy (entries : Byte) (x : LimitTable) (code : Nat) (e : Fin 8) : Bool :=
  entries.getLsbD e && decide (x.entryAction e = code)

/-- Transitions leave a sequencer, the water and the light as they were, and INTERLOCK raised if there were any. -/
structure Handed (any : Bool) (x : Sequencer) (s t : State) : Prop where
  sq : t.sq = x
  wu : t.wu = s.wu
  lu : t.lu = s.lu
  ru : t.ru = if any = true then s.ru.raised .interlock else s.ru

theorem Handed.refl (s : State) : Handed false s.sq s s := ⟨rfl, rfl, rfl, rfl⟩

theorem Handed.trans {a b : Bool} {x y : Sequencer} {s t u : State} (h : Handed a x s t) (k : Handed b y t u) :
    Handed (a || b) y s u where
  sq := k.sq
  wu := k.wu.trans h.wu
  lu := k.lu.trans h.lu
  ru := by
    rw [k.ru, h.ru]
    cases a <;> cases b
    case true.true => exact ReportUnit.raised_again .interlock s.ru
    all_goals rfl

theorem handTransition_hold {e : Fin 8} {s : State} (hold : s.ls.table.entryAction e = 0) :
    handTransition e s = (raise .interlock s).setSq s.sq.heldByEntry := by
  rw [handTransition, (ofCode_hold _).mpr hold]; exact holdEntryMatched_eq _

theorem handTransition_other {e : Fin 8} {s : State} (hold : s.ls.table.entryAction e ≠ 0)
    (trip : s.ls.table.entryAction e ≠ 3) : handTransition e s = raise .interlock s := by
  unfold handTransition
  dsimp only
  split
  case h_1 code => exact absurd ((ofCode_hold _).mp code) hold
  case h_2 code => exact absurd ((ofCode_trip _).mp code) trip
  all_goals rfl

/-- The transition of an entry that does not trip (R126 to R130). -/
theorem handTransition_handed {e : Fin 8} {s : State} (trip : s.ls.table.entryAction e ≠ 3) :
    Handed true (if s.ls.table.entryAction e = 0 then s.sq.heldByEntry else s.sq) s (handTransition e s) := by
  by_cases hold : s.ls.table.entryAction e = 0
  · rw [handTransition_hold hold, if_pos hold]; exact ⟨rfl, rfl, rfl, rfl⟩
  · rw [handTransition_other hold trip, if_neg hold]; exact ⟨rfl, rfl, rfl, rfl⟩

/-- A transition finds a show that counts faults (R21, R24). -/
theorem handTransition_counted (e : Fin 8) {s : State} (faulted : s.sq.faulted) :
    Handed true (s.sq.countFaults (if s.ls.table.entryAction e = 3 then 1 else 0)) s (handTransition e s) := by
  by_cases trip : s.ls.table.entryAction e = 3
  · have counted : takeFault (.interlockTrip e) (raise .interlock s) = _ :=
      takeFault_counts _ (s := raise .interlock s) faulted
    rw [handTransition_trip trip, counted, if_pos trip]
    exact ⟨rfl, rfl, rfl, rfl⟩
  · have handed := handTransition_handed trip
    rw [Sequencer.heldByEntry_dead (Sequencer.faulted_dead faulted), ite_self] at handed
    rw [if_neg trip, Sequencer.countFaults_zero]
    exact handed

theorem transitions_append (entries : Byte) (xs ys : List (Fin 8)) (s : State) :
    transitions entries (xs ++ ys) s = transitions entries ys (transitions entries xs s) := List.foldl_append

theorem transitions_ls (entries : Byte) (es : List (Fin 8)) (s : State) : (transitions entries es s).ls = s.ls :=
  (transitions_showOnly entries es s).ls

/-- Transitions of which none trips (R126, R127). -/
theorem transitions_handed {entries : Byte} {es : List (Fin 8)} {s : State}
    (untripped : ∀ e ∈ es, actsBy entries s.ls.table 3 e = false) :
    Handed (es.any fun e => entries.getLsbD e)
      (if es.any (actsBy entries s.ls.table 0) = true then s.sq.heldByEntry else s.sq) s (transitions entries es s) := by
  induction es generalizing s with
  | nil => exact Handed.refl s
  | cons e es ih =>
    rw [transitions_cons, List.any_cons, List.any_cons]
    have none := untripped e List.mem_cons_self
    have later := fun d (mem : d ∈ es) => untripped d (List.mem_cons_of_mem e mem)
    cases moves : entries.getLsbD e with
    | false =>
      rw [actsBy, moves, Bool.false_and, Bool.false_or, Bool.false_or, if_neg Bool.false_ne_true]
      exact ih later
    | true =>
      have trip : s.ls.table.entryAction e ≠ 3 := by simpa [actsBy, moves] using none
      have first := handTransition_handed trip
      have same : (handTransition e s).ls = s.ls := (handTransition_showOnly e s).ls
      have rest := ih (s := handTransition e s) (by rw [same]; exact later)
      rw [same, first.sq] at rest
      rw [if_pos rfl]
      convert first.trans rest using 1
      by_cases hold : s.ls.table.entryAction e = 0
      · simp [actsBy, moves, hold, Sequencer.heldByEntry_again]
      · simp [actsBy, hold]

/-- Transitions while faults are counted (R21, R24). -/
theorem transitions_counted {entries : Byte} {es : List (Fin 8)} {s : State} (faulted : s.sq.faulted) :
    Handed (es.any fun e => entries.getLsbD e) (s.sq.countFaults (es.countP (actsBy entries s.ls.table 3))) s
      (transitions entries es s) := by
  induction es generalizing s with
  | nil => rw [List.countP_nil, Sequencer.countFaults_zero]; exact Handed.refl s
  | cons e es ih =>
    rw [transitions_cons, List.any_cons, List.countP_cons]
    cases moves : entries.getLsbD e with
    | false =>
      rw [actsBy, moves, Bool.false_and, Bool.false_or, if_neg Bool.false_ne_true, if_neg Bool.false_ne_true,
        Nat.add_zero]
      exact ih faulted
    | true =>
      have first := handTransition_counted e faulted
      have same : (handTransition e s).ls = s.ls := (handTransition_showOnly e s).ls
      have still : (handTransition e s).sq.faulted := by rw [first.sq]; exact faulted
      have rest := ih still
      rw [same, first.sq, Sequencer.countFaults_add] at rest
      rw [if_pos rfl, actsBy, moves, Bool.true_and, Nat.add_comm]
      simp only [decide_eq_true_eq]
      exact first.trans rest

/-! ## The first transition that trips (R21, R22, R126) -/

/-- What transitions leave whose first fault is that of entry e, counting n later ones: `p` is the state in which the fault is
taken, in which a HOLD entry before e may have held the show. -/
structure TripHanded (e : Fin 8) (n : Nat) (s p t : State) : Prop where
  before : ∃ any, Handed any p.sq s p
  held : p.sq = s.sq ∨ p.sq = s.sq.heldByEntry
  sq : t.sq = (takeFault (.interlockTrip e) p).sq.countFaults n
  wu : t.wu = (takeFault (.interlockTrip e) p).wu
  lu : t.lu = (takeFault (.interlockTrip e) p).lu
  ru : t.ru = (s.ru.raised .interlock).raised .fault

/-- A hold does not make a show count faults. -/
theorem Sequencer.unfaulted_of_held {x y : Sequencer} (held : y = x ∨ y = x.heldByEntry) (unfaulted : ¬x.faulted) :
    ¬y.faulted := by
  rcases held with rfl | rfl
  · exact unfaulted
  · unfold heldByEntry; split
    · simp [faulted]
    · exact unfaulted

/-- Of transitions of which some trip, the lowest entry's is the first fault, and the others' are counted. -/
theorem transitions_trip {entries : Byte} {es : List (Fin 8)} {e : Fin 8} {s : State} (sorted : es.Pairwise (· < ·))
    (mem : e ∈ es) (trip : actsBy entries s.ls.table 3 e = true)
    (first : ∀ d < e, actsBy entries s.ls.table 3 d = false) (unfaulted : ¬s.sq.faulted) :
    ∃ p, TripHanded e (es.countP (actsBy entries s.ls.table 3) - 1) s p (transitions entries es s) := by
  obtain ⟨pre, post, rfl⟩ := List.append_of_mem mem
  have lower : ∀ d ∈ pre, d < e := fun d d_mem => (List.pairwise_append.mp sorted).2.2 d d_mem e List.mem_cons_self
  have before := transitions_handed (s := s) fun d d_mem => first d (lower d d_mem)
  have none : pre.countP (actsBy entries s.ls.table 3) = 0 :=
    List.countP_eq_zero.mpr fun d d_mem => by rw [first d (lower d d_mem)]; exact Bool.false_ne_true
  have ls : (transitions entries pre s).ls = s.ls := transitions_ls entries pre s
  obtain ⟨moves, action⟩ : entries.getLsbD e = true ∧ s.ls.table.entryAction e = 3 := by simpa [actsBy] using trip
  rw [transitions_append, transitions_cons, if_pos moves, handTransition_trip (by rw [ls]; exact action),
    List.countP_append, none, List.countP_cons, if_pos trip, Nat.zero_add, Nat.add_sub_cancel]
  generalize transitions entries pre s = q at before ls
  have held : q.sq = s.sq ∨ q.sq = s.sq.heldByEntry := by
    rw [before.sq]; split
    · exact .inr rfl
    · exact .inl rfl
  have fresh : ¬(raise .interlock q).sq.faulted := Sequencer.unfaulted_of_held held unfaulted
  obtain ⟨faulted, ru⟩ := takeFault_first (.interlockTrip e) fresh
  have after := transitions_counted (entries := entries) (es := post) faulted
  have ls' : (takeFault (.interlockTrip e) (raise .interlock q)).ls = s.ls :=
    (takeFault_showOnly _ (raise .interlock q)).ls.trans ls
  have raised : Handed true q.sq q (raise .interlock q) := ⟨rfl, rfl, rfl, rfl⟩
  have upto := before.trans raised
  have interlock : (raise .interlock q).ru = s.ru.raised .interlock := by rw [upto.ru, Bool.or_true, if_pos rfl]
  refine ⟨raise .interlock q, ⟨⟨_, upto⟩, held, by rw [after.sq, ls'], after.wu, after.lu, ?_⟩⟩
  rw [after.ru, ru, interlock]
  split
  · rw [ReportUnit.raised_comm, ReportUnit.raised_again]
  · rfl

end Sys2Proof.Machine
end

section
/-! Proofs: the end of an evaluation, and with it RELEASE_INTERLOCKS. -/

namespace Sys2Proof.Machine

/-! ## The end of a hold (R127) -/

/-- The sequencer after an evaluation's transitions, given whether a HOLD entry stood matched before and stands after. -/
def Sequencer.afterHolds (before after : Bool) (x : Sequencer) : Sequencer :=
  if before = true ∧ after = false then x.holdEnded else x

theorem handHoldEnd_eq (before : Bool) (s : State) :
    handHoldEnd before s = s.setSq (s.sq.afterHolds before (anyMatched s .hold)) := by
  unfold handHoldEnd Sequencer.afterHolds
  rw [noHoldEntryMatched_eq]
  cases before <;> cases anyMatched s .hold <;> rfl

theorem Sequencer.afterHolds_other {x : Sequencer} (h : x.state ≠ .held) (before after : Bool) :
    x.afterHolds before after = x := by
  rw [afterHolds, holdEnded_other h, ite_self]

theorem Sequencer.afterHolds_held {x : Sequencer} (h : x.state = .held) (before after : Bool) :
    x.afterHolds before after = if before = true ∧ after = false then
      { x with holdInterlock := false, state := if x.holdHost then .held else .running } else x := by
  rw [afterHolds, holdEnded, if_pos h]

theorem Sequencer.afterHolds_kept (x : Sequencer) (before : Bool) : x.afterHolds before true = x :=
  if_neg fun h => Bool.false_ne_true h.2.symm

/-- Which entries are matched follows from the matched set and the table alone. -/
theorem anyMatched_congr {s t : State} (a : InterlockAction) (gu : t.gu.matched = s.gu.matched) (ls : t.ls = s.ls) :
    anyMatched t a = anyMatched s a := by
  rw [anyMatched, anyMatched, gu, ls]

/-! ## RELEASE_INTERLOCKS (R26, R125) -/

theorem transitions_none (es : List (Fin 8)) (s : State) : transitions 0 es s = s := by
  induction es with
  | nil => rfl
  | cons e es ih => rw [transitions_cons, if_neg (by simp)]; exact ih

/-- The latched entries whose pattern does not hold with no edge. -/
def released (s : State) : Byte := s.gu.latched &&& ~~~ holdingSet s none

/-- The guard unit without the entries released (R125). -/
def unlatched (s : State) : GuardUnit :=
  { s.gu with matched := s.gu.matched &&& ~~~ released s, latched := s.gu.latched &&& ~~~ released s }

theorem unlatch_eq (s : State) : unlatch s = (s.setGu (unlatched s)).setSq
    (s.sq.afterHolds (anyMatched s .hold) (anyMatched (s.setGu (unlatched s)) .hold)) := by
  have none := transitions_none (List.finRange 8) (s.setGu (unlatched s))
  have ends := handHoldEnd_eq (anyMatched s .hold) (s.setGu (unlatched s))
  rw [← none] at ends
  refine ends.trans ?_
  rw [none]; rfl

/-- The sequencer after TRIPPED is left for IDLE, where no TRIP entry is matched (R26). -/
def Sequencer.afterTrips (trip : Bool) (x : Sequencer) : Sequencer :=
  if x.state = .tripped ∧ trip = false then { x with state := .idle, faultRecord := FaultRecord.empty } else x

theorem leaveTripped_eq (s : State) : leaveTripped s = s.setSq (s.sq.afterTrips (anyMatched s .trip)) := by
  unfold leaveTripped inState Sequencer.afterTrips
  cases anyMatched s .trip <;> by_cases tripped : s.sq.state = .tripped <;> simp [tripped]

theorem takeRelease_eq (s : State) : takeRelease s = (s.setGu (unlatched s)).setSq
    ((s.sq.afterHolds (anyMatched s .hold) (anyMatched (s.setGu (unlatched s)) .hold)).afterTrips
      (anyMatched (s.setGu (unlatched s)) .trip)) := by
  rw [takeRelease, leaveTripped_eq, unlatch_eq]; rfl

theorem getLsbD_holdingSet (s : State) (edge : Option (Fin 16 × Bool)) (e : Fin 8) :
    (holdingSet s edge).getLsbD e = entryHolds s edge e := by
  rw [holdingSet, getLsbD_bitsOf, decide_eq_true e.isLt, Bool.true_and]

theorem getLsbD_released (s : State) (e : Fin 8) :
    (released s).getLsbD e = (s.gu.latched.getLsbD e && !entryHolds s none e) := by
  rw [released, BitVec.getLsbD_and, BitVec.getLsbD_not, getLsbD_holdingSet, decide_eq_true e.isLt, Bool.true_and]

/-- A set without some of its members. -/
theorem getLsbD_without (x y : Byte) (e : Fin 8) : (x &&& ~~~ y).getLsbD e = (x.getLsbD e && !y.getLsbD e) := by
  rw [BitVec.getLsbD_and, BitVec.getLsbD_not, decide_eq_true e.isLt, Bool.true_and]

end Sys2Proof.Machine

open Sys2Proof Sys2Proof.Machine

/-- Settles O22: the entries released, and the sequencer by show state. -/
theorem releaseUnlatches : Obligations.ReleaseUnlatches := by
  unfold Obligations.ReleaseUnlatches
  intro s burst path
  have act := takeRelease_eq s
  refine completes_accepted (outcome := fun _ => .accepted) (act := takeRelease) rfl path rfl (by rw [act]; rfl)
    (by rw [act]; rfl) fun t done => ?_
  rw [act] at done
  have gu : t.gu = unlatched s := done.gu
  have ls : t.ls = s.ls := done.ls
  have matched : ∀ a, anyMatched t a = anyMatched (s.setGu (unlatched s)) a := fun a =>
    anyMatched_congr (s := s.setGu (unlatched s)) a (congrArg GuardUnit.matched gu) ls
  have sq := done.sq
  rw [sq_setSq, ← matched, ← matched] at sq
  refine ⟨fun e => ?_, ?_, fun tripped => ?_, fun held => ?_, fun notTripped notHeld => ?_, done.au, done.wu, done.lu, ls,
    done.ground.of_eq rfl rfl, done.fetch.of_eq rfl, done.posted, done.recorded⟩
  · rw [gu, ← getLsbD_released]
    exact ⟨getLsbD_without _ _ e, getLsbD_without _ _ e⟩
  · rw [gu]; rfl
  · rw [sq, Sequencer.afterHolds_other (by rw [tripped]; decide), Sequencer.afterTrips]
    cases anyMatched t .trip <;> simp [tripped]
  · rw [sq, Sequencer.afterHolds_held held, Sequencer.afterTrips, if_neg]
    rintro ⟨tripped, -⟩
    revert tripped
    split
    · cases s.sq.holdHost <;> simp
    · rw [held]; simp
  · rw [sq, Sequencer.afterHolds_other notHeld, Sequencer.afterTrips, if_neg fun h => notTripped h.1]

end

section
/-! Proofs: what the patterns and latches of interlock entries say of their specs. -/

namespace Sys2Proof.Machine

/-! ## Specs and patterns (R121, R122) -/

theorem specHolds_iff (code : Nat) (level : Bool) (edge : Option Bool) : specHolds code level edge = true ↔
    (code = 1 ∧ level = false) ∨ (code = 2 ∧ level = true) ∨ ((code = 3 ∨ code = 5) ∧ edge = some true) ∨
      ((code = 4 ∨ code = 5) ∧ edge = some false) := by
  match code with
  | 0 | 1 | 2 | 3 | 4 => simp [specHolds]
  | 5 => rcases edge with _ | _ | _ <;> simp [specHolds]
  | n + 6 => simp [specHolds]

/-- A spec that is ignored does not hold. -/
theorem specHolds_ignore (level : Bool) (edge : Option Bool) : specHolds 0 level edge = false := rfl

theorem edgeOn_iff (edge : Option (Fin 16 × Bool)) (i : Fin 16) (rising : Bool) :
    edgeOn edge i = some rising ↔ edge = some (i, rising) := by
  rcases edge with _ | ⟨j, b⟩
  · simp [edgeOn]
  · simp [edgeOn, Fin.ext_iff]

/-- The spec of input i in entry e holds in an evaluation. -/
def LimitTable.inputHolds (x : LimitTable) (e : Nat) (levels : Half) (edge : Option (Fin 16 × Bool)) (i : Fin 16) : Bool :=
  specHolds (x.spec e i) (levels.getLsbD i) (edgeOn edge i)

theorem LimitTable.inputHolds_iff (x : LimitTable) (e : Nat) (levels : Half) (edge : Option (Fin 16 × Bool)) (i : Fin 16) :
    x.inputHolds e levels edge i = true ↔
      (x.spec e i = 1 ∧ levels.getLsbD i = false) ∨ (x.spec e i = 2 ∧ levels.getLsbD i = true) ∨
      ((x.spec e i = 3 ∨ x.spec e i = 5) ∧ edge = some (i, true)) ∨
      ((x.spec e i = 4 ∨ x.spec e i = 5) ∧ edge = some (i, false)) := by
  rw [inputHolds, specHolds_iff, edgeOn_iff, edgeOn_iff]

theorem LimitTable.used_of_holds {x : LimitTable} {e : Nat} {levels : Half} {edge : Option (Fin 16 × Bool)} {i : Fin 16}
    (h : x.inputHolds e levels edge i = true) : x.spec e i ≠ 0 := fun ignore => by
  rw [inputHolds, ignore, specHolds_ignore] at h
  exact Bool.false_ne_true h

theorem LimitTable.patternHolds_all {x : LimitTable} {e : Nat} (mode : x.entryMode e = 0) (levels : Half)
    (edge : Option (Fin 16 × Bool)) : x.patternHolds e levels edge = true ↔
      (∃ i : Fin 16, x.spec e i ≠ 0) ∧ ∀ i : Fin 16, x.spec e i ≠ 0 → x.inputHolds e levels edge i = true := by
  unfold patternHolds
  dsimp only
  rw [if_pos mode, Bool.and_eq_true, List.all_eq_true, Fin.exists_iff, Fin.forall_iff]
  simp only [Bool.not_eq_true', List.isEmpty_eq_false_iff_exists_mem, List.mem_filter, List.mem_range, decide_eq_true_eq,
    inputHolds, exists_prop, and_imp]

theorem LimitTable.patternHolds_any {x : LimitTable} {e : Nat} (mode : x.entryMode e ≠ 0) (levels : Half)
    (edge : Option (Fin 16 × Bool)) : x.patternHolds e levels edge = true ↔
      ∃ i : Fin 16, x.inputHolds e levels edge i = true := by
  unfold patternHolds
  dsimp only
  rw [if_neg mode, List.any_eq_true]
  simp only [List.mem_filter, List.mem_range, decide_eq_true_eq]
  constructor
  · rintro ⟨i, ⟨lt, -⟩, holds⟩; exact ⟨⟨i, lt⟩, holds⟩
  · rintro ⟨i, holds⟩; exact ⟨i, ⟨i.isLt, used_of_holds holds⟩, holds⟩

theorem LimitTable.latchFlag_iff (x : LimitTable) (e : Nat) :
    x.latchFlag e = true ↔ (x.byte (1344 + 16 * e + 12)).toNat % 2 = 1 := by
  rw [latchFlag, BitVec.getLsbD, Nat.testBit_zero, decide_eq_true_iff]

theorem LimitTable.latching_iff (x : LimitTable) (e : Nat) : x.latching e = true ↔
    (x.byte (1344 + 16 * e + 12)).toNat % 2 = 1 ∨ ∃ i : Fin 16, x.spec e i = 3 ∨ x.spec e i = 4 ∨ x.spec e i = 5 := by
  have edges : ∀ code, edgeSpec code = true ↔ code = 3 ∨ code = 4 ∨ code = 5 := fun code => by
    rw [edgeSpec, decide_eq_true_iff]; omega
  rw [latching, Bool.or_eq_true, latchFlag_iff, List.any_eq_true, Fin.exists_iff]
  simp only [List.mem_range, edges, exists_prop]

end Sys2Proof.Machine
end

section
/-! Proofs: an evaluation by what became matched, and with it the expiry of a debounce timer. -/

namespace Sys2Proof.Machine

/-! ## Evaluations (R123, R126, R127) -/

/-- The state with the guard unit's two sets replaced. -/
def withSets (matched latched : Byte) (s : State) : State := s.setGu { s.gu with matched := matched, latched := latched }

theorem takeSets_eq (matched latched moved : Byte) (s : State) : takeSets matched latched moved s =
    handHoldEnd (anyMatched s .hold) (transitions moved (List.finRange 8) (withSets matched latched s)) := rfl

theorem takeSets_gu (matched latched moved : Byte) (s : State) :
    (takeSets matched latched moved s).gu = { s.gu with matched := matched, latched := latched } :=
  (takeSets_showOnly matched latched moved s).gu

theorem anyMatched_handHoldEnd (before : Bool) (a : InterlockAction) (s : State) :
    anyMatched (handHoldEnd before s) a = anyMatched s a := by
  rw [handHoldEnd_eq]; rfl

/-- Transitions followed by the end of a hold. -/
theorem Handed.holdEnds {any : Bool} {x : Sequencer} {s t : State} (h : Handed any x s t) (before : Bool) :
    Handed any (x.afterHolds before (anyMatched t .hold)) s (handHoldEnd before t) := by
  rw [handHoldEnd_eq, h.sq]; exact ⟨rfl, h.wu, h.lu, h.ru⟩

/-- The sets of the guard unit are beside what is handed on. -/
theorem Handed.ofSets {any : Bool} {x : Sequencer} {matched latched : Byte} {s t : State}
    (h : Handed any x (withSets matched latched s) t) : Handed any x s t := ⟨h.sq, h.wu, h.lu, h.ru⟩

theorem Sequencer.faulted_countFaults {x : Sequencer} (h : x.faulted) (n : Nat) : (x.countFaults n).faulted := h

section
variable {matched latched moved : Byte} {s : State}

/-- The number of entries moved whose action is TRIP. -/
def tripCount (moved : Byte) (x : LimitTable) : Nat := (List.finRange 8).countP (actsBy moved x 3)

/-- The entries that trip after the first are too few to saturate the count. -/
theorem tripCount_later (moved : Byte) (x : LimitTable) : tripCount moved x - 1 ≤ 255 := by
  have few : tripCount moved x ≤ 8 := List.countP_le_length.trans (le_of_eq List.length_finRange)
  omega

/-- An evaluation while faults are counted (R21, R24). -/
theorem takeSets_counted (faulted : s.sq.faulted) :
    Handed ((List.finRange 8).any fun e => moved.getLsbD e) (s.sq.countFaults (tripCount moved s.ls.table)) s
      (takeSets matched latched moved s) := by
  have base : (withSets matched latched s).sq.faulted := faulted
  have ends := (transitions_counted (entries := moved) (es := List.finRange 8) base).holdEnds (anyMatched s .hold)
  rw [Sequencer.afterHolds_other
    (Sequencer.not_held_of_dead (Sequencer.faulted_dead (Sequencer.faulted_countFaults base _)))] at ends
  exact ends.ofSets

/-- An evaluation at which no TRIP entry becomes matched (R126, R127). -/
theorem takeSets_untripped (untripped : ∀ e, actsBy moved s.ls.table 3 e = false) :
    Handed ((List.finRange 8).any fun e => moved.getLsbD e)
      ((if (List.finRange 8).any (actsBy moved s.ls.table 0) = true then s.sq.heldByEntry else s.sq).afterHolds
        (anyMatched s .hold) (anyMatched (takeSets matched latched moved s) .hold)) s (takeSets matched latched moved s) := by
  have handed := transitions_handed (entries := moved) (es := List.finRange 8)
    (s := withSets matched latched s) fun e _ => untripped e
  have ends := handed.holdEnds (anyMatched s .hold)
  rw [takeSets_eq, anyMatched_handHoldEnd]
  exact ends.ofSets

/-- An evaluation at which a TRIP entry becomes matched, the lowest of them e (R21, R22, R126). -/
theorem takeSets_trip {e : Fin 8} (trip : actsBy moved s.ls.table 3 e = true)
    (first : ∀ d < e, actsBy moved s.ls.table 3 d = false) (unfaulted : ¬s.sq.faulted) :
    ∃ p, TripHanded e (tripCount moved s.ls.table - 1) s p (takeSets matched latched moved s) := by
  obtain ⟨p, ⟨any, before⟩, held, sq, wu, lu, ru⟩ := transitions_trip (entries := moved) (es := List.finRange 8)
    (s := withSets matched latched s) (List.pairwise_lt_finRange 8) (List.mem_finRange e)
    trip first unfaulted
  have fresh : ¬p.sq.faulted := Sequencer.unfaulted_of_held held unfaulted
  have faulted := Sequencer.faulted_countFaults (takeFault_first (.interlockTrip e) fresh).1 (tripCount moved s.ls.table - 1)
  refine ⟨p, ⟨any, before.sq, before.wu, before.lu, before.ru⟩, held, ?_, ?_, ?_, ?_⟩
  all_goals rw [takeSets_eq, handHoldEnd_eq]
  · rw [sq_setSq, sq, Sequencer.afterHolds_other]
    · rfl
    · exact Sequencer.not_held_of_dead (Sequencer.faulted_dead faulted)
  · exact wu
  · exact lu
  · exact ru

end

/-! ## The first fault by show state (R21, R22, R24) -/

/-- The fault record of a trip of entry e, with n later ones. -/
def tripRecord (x : Sequencer) (e : Fin 8) (n : Nat) : FaultRecord :=
  { first := some (.interlockTrip e), position := x.position, secondary := BitVec.ofNat 8 n }

theorem Sequencer.countFaults_filled {x : Sequencer} {e : Fin 8} {n : Nat} (few : n ≤ 255) :
    ({ x with faultRecord := tripRecord x e 0 } : Sequencer).countFaults n = { x with faultRecord := tripRecord x e n } := by
  have sum : min 255 ((tripRecord x e 0).secondary.toNat + n) = n := by simp [tripRecord]; omega
  rw [countFaults, sum]; rfl

section
variable {e : Fin 8} {n : Nat} {s p t : State}

/-- A fault finds a show that is not live as it was before the transitions. -/
theorem TripHanded.dead (h : TripHanded e n s p t) (dead : s.sq.state.live = false) :
    p.sq = s.sq ∧ p.wu = s.wu ∧ p.lu = s.lu := by
  obtain ⟨any, before⟩ := h.before
  refine ⟨?_, before.wu, before.lu⟩
  rcases h.held with same | same
  · exact same
  · rw [same, Sequencer.heldByEntry_dead dead]

theorem TripHanded.idle (h : TripHanded e n s p t) (few : n ≤ 255) (idle : s.sq.state = .idle) :
    t.sq = { s.sq with state := .tripped, faultRecord := tripRecord s.sq e n } ∧ t.wu = s.wu ∧ t.lu = s.lu := by
  obtain ⟨sq, wu, lu⟩ := h.dead (by rw [idle]; rfl)
  have fault := takeFault_idle (.interlockTrip e) (s := p) (by rw [sq]; exact idle)
  refine ⟨?_, ?_, ?_⟩
  · have tripped : (takeFault (.interlockTrip e) p).sq =
        { ({ s.sq with state := .tripped } : Sequencer) with faultRecord := tripRecord s.sq e 0 } := by
      rw [fault, ← sq]; rfl
    rw [h.sq, tripped]
    exact Sequencer.countFaults_filled (x := { s.sq with state := .tripped }) few
  · rw [h.wu, fault]; exact wu
  · rw [h.lu, fault]; exact lu

theorem TripHanded.converts (h : TripHanded e n s p t) (few : n ≤ 255) (down : s.sq.state = .winddown)
    (normal : s.sq.kind = .normal) :
    t.sq = { s.sq with kind := .fault, faultRecord := tripRecord s.sq e n } ∧ t.wu = s.wu ∧
      ∀ g : Fin 64, t.lu.groups[g] = { s.lu.groups[g] with fade := 0 } := by
  obtain ⟨sq, wu, lu⟩ := h.dead (by rw [down]; rfl)
  have fault := takeFault_converts (.interlockTrip e) (s := p) (by rw [sq]; exact down) (by rw [sq]; exact normal)
  refine ⟨?_, ?_, fun g => ?_⟩
  · have converted : (takeFault (.interlockTrip e) p).sq =
        { ({ s.sq with kind := .fault } : Sequencer) with faultRecord := tripRecord s.sq e 0 } := by
      rw [fault, ← sq]; rfl
    rw [h.sq, converted]
    exact Sequencer.countFaults_filled (x := { s.sq with kind := .fault }) few
  · rw [h.wu, fault]; exact wu
  · rw [h.lu, fault, ← lu]; exact groups_mapGroups p.lu _ g

/-- A hold before the fault leaves nothing that the wind-down does not set. -/
theorem Sequencer.windDown_heldByEntry (x : Sequencer) (r : FaultRecord) (kind : WinddownKind) :
    ({ x.heldByEntry with faultRecord := r } : Sequencer).windDown kind =
      ({ x with faultRecord := r } : Sequencer).windDown kind := by
  unfold heldByEntry; split <;> rfl

theorem TripHanded.live (h : TripHanded e n s p t) (few : n ≤ 255) (live : s.sq.state.live = true) :
    t.sq = ({ s.sq with faultRecord := tripRecord s.sq e n } : Sequencer).windDown .fault ∧ t.wu.wanted = 0 ∧
      (∀ q : Fin 16, t.wu.commanded[q] = 0) ∧ t.wu.output = s.wu.output := by
  obtain ⟨any, before⟩ := h.before
  have still : p.sq.state.live = true := by
    rcases h.held with same | same <;> rw [same]
    · exact live
    · exact Sequencer.heldByEntry_live live
  have tripped := takeFault_tripped (.interlockTrip e) still
  refine ⟨?_, by rw [h.wu]; exact tripped.wanted, fun q => by rw [h.wu]; exact tripped.commanded q, ?_⟩
  · have filled : (takeFault (.interlockTrip e) p).sq =
        { s.sq.windDown .fault with faultRecord := tripRecord (s.sq.windDown .fault) e 0 } := by
      rw [tripped.sq, sq_fillRecord]
      rcases h.held with same | same <;> rw [same]
      · rfl
      · have position : s.sq.heldByEntry.position = s.sq.position := by unfold Sequencer.heldByEntry; split <;> rfl
        rw [Sequencer.windDown_heldByEntry, position]; rfl
    rw [h.sq, filled, Sequencer.countFaults_filled few]; rfl
  · rw [h.wu, tripped.output, before.wu]

/-- INTERLOCK and FAULT are raised at a first fault. -/
theorem TripHanded.raised (h : TripHanded e n s p t) :
    t.ru.pending = bitInsert (bitInsert s.ru.pending 1) 0 := by rw [h.ru]; rfl

end

end Sys2Proof.Machine
end

section
/-! Proofs: the expiry of a debounce timer on a changed level. -/

namespace Sys2Proof.Machine

/-! ## What an evaluation raises and holds -/

/-- Among the entries that have a property there is a lowest. -/
theorem exists_lowest {p : Fin 8 → Bool} (h : ∃ e, p e = true) : ∃ e, p e = true ∧ ∀ d < e, p d = false := by
  obtain ⟨e, holds, least⟩ := (wellFounded_lt (α := Fin 8)).has_min {e | p e = true} h
  exact ⟨e, holds, fun d lt => Bool.eq_false_iff.mpr fun k => least d k lt⟩

section
variable {matched latched moved : Byte} {s : State}

/-- INTERLOCK is raised when an entry becomes matched (R126). -/
theorem takeSets_raises {e : Fin 8} (moves : moved.getLsbD e = true) :
    (takeSets matched latched moved s).ru.pending.getLsbD 1 = true := by
  have any : ((List.finRange 8).any fun e => moved.getLsbD e) = true := List.any_eq_true.mpr ⟨e, List.mem_finRange e, moves⟩
  have raised : (s.ru.raised .interlock).pending.getLsbD 1 = true := by
    rw [ReportUnit.raised, getLsbD_bitInsert]; simp [Cause.bit]
  by_cases faulted : s.sq.faulted
  · rw [(takeSets_counted faulted).ru, if_pos any]; exact raised
  · by_cases trips : ∃ e, actsBy moved s.ls.table 3 e = true
    · obtain ⟨d, trip, first⟩ := exists_lowest trips
      obtain ⟨p, handed⟩ := takeSets_trip (matched := matched) (latched := latched) trip first faulted
      rw [handed.ru, ReportUnit.raised_comm, ReportUnit.raised, getLsbD_bitInsert]; simp [Cause.bit]
    · have untripped : ∀ e, actsBy moved s.ls.table 3 e = false := fun e => by
        rw [Bool.eq_false_iff]; exact fun k => trips ⟨e, k⟩
      rw [(takeSets_untripped untripped).ru, if_pos any]; exact raised

/-- Nothing is raised when no entry becomes matched. -/
theorem takeSets_quiet (still : ∀ e : Fin 8, moved.getLsbD e = false) : (takeSets matched latched moved s).ru = s.ru := by
  have untripped : ∀ e, actsBy moved s.ls.table 3 e = false := fun e => by rw [actsBy, still, Bool.false_and]
  rw [(takeSets_untripped untripped).ru, if_neg]
  rw [List.any_eq_true]
  rintro ⟨e, -, moves⟩
  rw [still] at moves
  exact Bool.false_ne_true moves

theorem actsBy_of_tripCount {x : LimitTable} (h : tripCount moved x = 0) (e : Fin 8) : actsBy moved x 3 e = false :=
  Bool.eq_false_iff.mpr (List.countP_eq_zero.mp h e (List.mem_finRange e))

end

theorem anyMatched_hold {s : State} {e : Fin 8} (stands : s.gu.matched.getLsbD e = true)
    (hold : s.ls.table.entryAction e = 0) : anyMatched s .hold = true := by
  rw [anyMatched, List.any_eq_true]
  refine ⟨e, List.mem_range.mpr e.isLt, ?_⟩
  rw [stands, LimitTable.hasAction, (ofCode_hold _).mpr hold]; rfl

/-- A HOLD entry that became matched holds the show; else a hold may end (R127). -/
theorem Sequencer.heldOrEnded {x : Sequencer} {held before after : Bool} (stands : held = true → after = true) :
    (if held = true then x.heldByEntry else x).afterHolds before after =
      if held = true ∧ (x.state = .running ∨ x.state = .starved ∨ x.state = .held) then
        { x with
          state := .held, holdInterlock := true, starveCount := if x.state = .starved then 0 else x.starveCount }
      else if x.state = .held ∧ before = true ∧ after = false then
        { x with holdInterlock := false, state := if x.holdHost then .held else .running }
      else x := by
  cases held with
  | true =>
    rw [stands rfl, if_pos rfl, afterHolds_kept]
    by_cases holdable : x.state = .running ∨ x.state = .starved ∨ x.state = .held
    · exact (heldByEntry_holdable holdable).trans (if_pos ⟨rfl, holdable⟩).symm
    · rw [heldByEntry_other holdable, if_neg fun h => holdable h.2, if_neg fun h => holdable (.inr (.inr h.1))]
  | false =>
    rw [if_neg Bool.false_ne_true, if_neg fun h => Bool.false_ne_true h.1]
    by_cases state : x.state = .held
    · rw [afterHolds_held state]; simp only [state, true_and]
    · rw [afterHolds_other state, if_neg fun h => state h.1]

/-! ## Entries counted -/

section
variable {moved : Byte} {x : LimitTable} {newly : Nat → Bool}

theorem countP_trips (h : ∀ e : Fin 8, moved.getLsbD e = newly e) :
    (List.range 8).countP (fun e => newly e && decide (x.entryAction e = 3)) = tripCount moved x := by
  rw [← List.map_coe_finRange_eq_range, List.countP_map, tripCount]
  refine List.countP_congr fun e _ => ?_
  rw [actsBy, h]; rfl

theorem any_acts (code : Nat) (h : ∀ e : Fin 8, moved.getLsbD e = newly e) :
    (List.range 8).any (fun e => newly e && decide (x.entryAction e = code)) = (List.finRange 8).any (actsBy moved x code) := by
  rw [← List.map_coe_finRange_eq_range, List.any_map]
  refine congrArg (List.finRange 8).any (funext fun e => ?_)
  rw [actsBy, h]; rfl

end

/-! ## The edge event (R120, R123) -/

/-- The state in which the entries are evaluated for an edge: the timer stopped, the debounced level taken. -/
def edgeTaken (i : Fin 16) (s : State) : State :=
  s.setGu { s.gu with
    timers := s.gu.timers.set i.val none i.isLt, debounced := bitPut s.gu.debounced i (s.gu.raw.getLsbD i) }

/-- The entries whose pattern holds at the edge. -/
def edgeHolding (i : Fin 16) (s : State) : Byte := holdingSet (edgeTaken i s) (some (i, s.gu.raw.getLsbD i))

/-- The entries that become matched at the edge. -/
def edgeMoved (i : Fin 16) (s : State) : Byte := edgeHolding i s &&& ~~~ s.gu.matched

/-- The evaluation for the edge. -/
def edgeEvaluated (i : Fin 16) (s : State) : State :=
  takeSets (edgeHolding i s ||| (s.gu.matched &&& latchingSet s)) (s.gu.latched ||| (edgeMoved i s &&& latchingSet s))
    (edgeMoved i s) (edgeTaken i s)

theorem timerExpires_edge {i : Fin 16} {s : State} (running : s.gu.timers[i] ≠ none)
    (edge : s.gu.raw.getLsbD i ≠ s.gu.debounced.getLsbD i) : timerExpires i s = edgeEvaluated i s := by
  rw [timerExpires, if_pos (Option.isSome_iff_ne_none.mpr running), expireDebounce]
  dsimp only
  rw [if_neg edge]
  rfl

theorem getLsbD_latchingSet (s : State) (e : Fin 8) : (latchingSet s).getLsbD e = s.ls.table.latching e := by
  rw [latchingSet, getLsbD_bitsOf, decide_eq_true e.isLt, Bool.true_and]

/-- The guard unit after the evaluation for an edge. -/
theorem edgeEvaluated_gu (i : Fin 16) (s : State) : (edgeEvaluated i s).gu = { s.gu with
    timers := s.gu.timers.set i.val none i.isLt, debounced := bitPut s.gu.debounced i (s.gu.raw.getLsbD i)
    matched := edgeHolding i s ||| (s.gu.matched &&& latchingSet s)
    latched := s.gu.latched ||| (edgeMoved i s &&& latchingSet s) } := takeSets_gu _ _ _ _

theorem edgeEvaluated_showOnly (i : Fin 16) (s : State) : ShowOnly (withSets
    (edgeHolding i s ||| (s.gu.matched &&& latchingSet s)) (s.gu.latched ||| (edgeMoved i s &&& latchingSet s)) (edgeTaken i s))
    (edgeEvaluated i s) := takeSets_showOnly _ _ _ _

/-- An entry's bits after the evaluation for an edge (R123). -/
theorem edgeEvaluated_entry (i : Fin 16) (s : State) (e : Fin 8) :
    (edgeEvaluated i s).gu.matched.getLsbD e =
      ((edgeHolding i s).getLsbD e || (s.gu.matched.getLsbD e && s.ls.table.latching e)) ∧
    (edgeEvaluated i s).gu.latched.getLsbD e =
      (s.gu.latched.getLsbD e || ((edgeMoved i s).getLsbD e && s.ls.table.latching e)) := by
  rw [edgeEvaluated_gu, ← getLsbD_latchingSet s]
  simp only [BitVec.getLsbD_or, BitVec.getLsbD_and, and_self]

/-- A HOLD entry that became matched at the edge is matched after it. -/
theorem edgeEvaluated_hold {i : Fin 16} {s : State}
    (h : (List.finRange 8).any (actsBy (edgeMoved i s) s.ls.table 0) = true) :
    anyMatched (edgeEvaluated i s) .hold = true := by
  obtain ⟨e, -, acts⟩ := List.any_eq_true.mp h
  rw [actsBy, Bool.and_eq_true, decide_eq_true_iff, edgeMoved, getLsbD_without, Bool.and_eq_true] at acts
  obtain ⟨⟨holding, -⟩, hold⟩ := acts
  refine anyMatched_hold (e := e) ?_ (by rw [(edgeEvaluated_showOnly i s).ls]; exact hold)
  rw [(edgeEvaluated_entry i s e).1, holding, Bool.true_or]

/-- An edge at which a TRIP entry becomes matched, the lowest of them e. -/
theorem edgeEvaluated_trip {i : Fin 16} {s : State} {e : Fin 8} (trip : actsBy (edgeMoved i s) s.ls.table 3 e = true)
    (first : ∀ d < e, actsBy (edgeMoved i s) s.ls.table 3 d = false) (unfaulted : ¬s.sq.faulted) :
    ∃ p, TripHanded e (tripCount (edgeMoved i s) s.ls.table - 1) (edgeTaken i s) p (edgeEvaluated i s) :=
  takeSets_trip (s := edgeTaken i s) trip first unfaulted

/-- An edge while faults are counted. -/
theorem edgeEvaluated_counted {i : Fin 16} {s : State} (faulted : s.sq.faulted) :
    (edgeEvaluated i s).sq = s.sq.countFaults (tripCount (edgeMoved i s) s.ls.table) ∧
    (edgeEvaluated i s).wu = s.wu ∧ (edgeEvaluated i s).lu = s.lu := by
  have handed : Handed _ _ (edgeTaken i s) (edgeEvaluated i s) := takeSets_counted (s := edgeTaken i s) faulted
  exact ⟨handed.sq, handed.wu, handed.lu⟩

/-- The show at an edge at which no TRIP entry becomes matched (R18, R127). -/
theorem edgeEvaluated_untripped {i : Fin 16} {s : State} (none : tripCount (edgeMoved i s) s.ls.table = 0) :
    (edgeEvaluated i s).sq =
      (if (List.finRange 8).any (actsBy (edgeMoved i s) s.ls.table 0) = true ∧
          (s.sq.state = .running ∨ s.sq.state = .starved ∨ s.sq.state = .held) then
        { s.sq with
          state := .held, holdInterlock := true
          starveCount := if s.sq.state = .starved then 0 else s.sq.starveCount }
      else if s.sq.state = .held ∧ anyMatched s .hold = true ∧ anyMatched (edgeEvaluated i s) .hold = false then
        { s.sq with holdInterlock := false, state := if s.sq.holdHost then .held else .running }
      else s.sq) ∧ (edgeEvaluated i s).wu = s.wu ∧ (edgeEvaluated i s).lu = s.lu := by
  have handed : Handed _ _ (edgeTaken i s) (edgeEvaluated i s) := takeSets_untripped fun e => actsBy_of_tripCount none e
  exact ⟨handed.sq.trans (Sequencer.heldOrEnded (x := s.sq) edgeEvaluated_hold), handed.wu, handed.lu⟩

end Sys2Proof.Machine

open Sys2Proof Sys2Proof.Machine

/-- Settles O52: the evaluation for the edge, by its first trip or without one, and the patterns by their specs. -/
theorem debounceExpiryEvaluates : Obligations.DebounceExpiryEvaluates := by
  unfold Obligations.DebounceExpiryEvaluates
  refine ⟨fun s i out running edge => ?_, fun s edge e => rfl, fun x e levels edge => ?_⟩
  · refine completes_event (f := timerExpires i) rfl out ?_
    rw [timerExpires_edge running edge]
    have done := eventEnd (edgeEvaluated i s)
    revert done
    generalize settle (edgeEvaluated i s) = t
    intro done levels holds newly trip trips held
    have gu : t.gu = _ := done.gu.trans (edgeEvaluated_gu i s)
    have only := edgeEvaluated_showOnly i s
    have holding : ∀ e : Fin 8, (edgeHolding i s).getLsbD e = holds e := fun e => by
      have same : levels = bitPut s.gu.debounced i (s.gu.raw.getLsbD i) := congrArg GuardUnit.debounced gu
      rw [edgeHolding, getLsbD_holdingSet]
      simp only [holds, same]
      rfl
    have moves : ∀ e : Fin 8, (edgeMoved i s).getLsbD e = newly e := fun e => by
      rw [edgeMoved, getLsbD_without, holding]
    have acts : ∀ e : Fin 8, actsBy (edgeMoved i s) s.ls.table 3 e = trip e := fun e => by rw [actsBy, moves]
    have count : trips = tripCount (edgeMoved i s) s.ls.table := countP_trips moves
    have few : trips - 1 ≤ 255 := by rw [count]; exact tripCount_later _ _
    refine ⟨fun j => ?_, fun j => ?_, fun e => ?_, ?_, ?_, ?_, ?_, fun e new => ?_, fun still => ?_,
      fun e tripped first => ?_, fun faulted => ?_, fun none => ?_, done.ls.trans only.ls, done.au.trans only.au,
      done.ground.of_eq only.inReset only.mem, done.fetch.of_eq only.fu, done.path.of_eq only.pu⟩
    · exact (congrArg (·.debounced.getLsbD j) gu).trans (getLsbD_bitPut_fin _ i j _)
    · exact (congrArg (·.timers[j]) gu).trans (timers_set _ i j none)
    · rw [← holding, ← moves, done.gu]; exact edgeEvaluated_entry i s e
    · rw [gu]
    · rw [gu]
    · rw [gu]
    · rw [gu]
    · rw [done.causes]; exact takeSets_raises ((moves e).trans new)
    · have quiet : (edgeEvaluated i s).ru = s.ru := takeSets_quiet fun e => (moves e).trans (still e)
      rw [done.causes, quiet]
    · intro record
      have handed : ¬s.sq.faulted → ∃ p, TripHanded e (trips - 1) (edgeTaken i s) p (edgeEvaluated i s) := fun fresh => by
        rw [count]
        exact edgeEvaluated_trip ((acts e).trans tripped) (fun d lt => (acts d).trans (first d lt)) fresh
      have fault : ∀ {p}, TripHanded e (trips - 1) (edgeTaken i s) p (edgeEvaluated i s) →
          t.ru.pending.getLsbD 0 = true := fun h => by
        rw [done.causes, h.raised, getLsbD_bitInsert, decide_eq_true rfl, Bool.and_true, decide_eq_true (by decide),
          Bool.or_true]
      rw [done.sq, done.wu, done.lu]
      refine ⟨fun idle => ?_, fun live => ?_, fun down normal => ?_⟩
      · obtain ⟨p, h⟩ := handed (by simp [Sequencer.faulted, idle])
        obtain ⟨sq, wu, lu⟩ := h.idle few idle
        exact ⟨sq, fault h, wu, lu⟩
      · obtain ⟨p, h⟩ := handed fun f => by simp [Sequencer.faulted_dead f] at live
        obtain ⟨sq, wanted, commanded, output⟩ := h.live few live
        exact ⟨sq, fault h, wanted, commanded, output⟩
      · obtain ⟨p, h⟩ := handed (by simp [Sequencer.faulted, down, normal])
        obtain ⟨sq, wu, groups⟩ := h.converts few down normal
        exact ⟨sq, fault h, wu, groups⟩
    · obtain ⟨counted, wu, lu⟩ := edgeEvaluated_counted (i := i) faulted
      have sq : t.sq = s.sq.countFaults trips := by rw [count, done.sq, counted]
      rw [sq]
      exact ⟨rfl, Sequencer.toNat_countFaults trips s.sq, done.wu.trans wu, done.lu.trans lu⟩
    · obtain ⟨sq, wu, lu⟩ := edgeEvaluated_untripped (count.symm.trans none)
      have same : anyMatched t .hold = anyMatched (edgeEvaluated i s) .hold :=
        anyMatched_congr .hold (congrArg GuardUnit.matched done.gu) done.ls
      rw [← any_acts 0 moves, ← same] at sq
      exact ⟨done.sq.trans sq, done.wu.trans wu, done.lu.trans lu⟩
  · intro field code holds
    have spec : ∀ i : Fin 16, x.inputHolds e levels edge i = true ↔ holds i := x.inputHolds_iff e levels edge
    refine ⟨fun mode => ?_, fun mode => ?_, x.latching_iff e⟩
    · exact (LimitTable.patternHolds_all mode levels edge).trans (by simp only [spec]; rfl)
    · have other : x.entryMode e ≠ 0 := by rw [show x.entryMode e = 1 from mode]; decide
      exact (LimitTable.patternHolds_any other levels edge).trans (exists_congr spec)

end

section
/-! Proofs: the release of reset. -/

namespace Sys2Proof.Machine

/-! ## The levels evaluation of an idle show (R22, R124) -/

/-- What the levels evaluation leaves of an idle show with no cause pending. -/
structure LevelsTaken (s u : State) : Prop where
  wu : u.wu = s.wu
  lu : u.lu = s.lu
  ru : u.ru = { s.ru with pending := u.ru.pending }
  causes : ∀ k : Fin 9, u.ru.pending.getLsbD k = true ↔
    ((k = 1 ∧ ∃ e : Fin 8, (holdingSet s none).getLsbD e = true) ∨
      (k = 0 ∧ ∃ e : Fin 8, actsBy (holdingSet s none) s.ls.table 3 e = true))
  idle : (∀ e, actsBy (holdingSet s none) s.ls.table 3 e = false) → u.sq.state = .idle
  tripped : ∀ e, actsBy (holdingSet s none) s.ls.table 3 e = true →
    (∀ d < e, actsBy (holdingSet s none) s.ls.table 3 d = false) →
    u.sq.state = .tripped ∧ u.sq.faultRecord.first = some (.interlockTrip e)

theorem evaluateLevels_idle {s : State} (idle : s.sq.state = .idle) (quiet : s.ru.pending = 0) :
    LevelsTaken s (evaluateLevels s) := by
  have unfaulted : ¬s.sq.faulted := by simp [Sequencer.faulted, idle]
  have dead : s.sq.state.live = false := by rw [idle]; rfl
  by_cases trips : ∃ e, actsBy (holdingSet s none) s.ls.table 3 e = true
  · obtain ⟨e, trip, first⟩ := exists_lowest trips
    have handed : ∃ p, TripHanded e _ s p (evaluateLevels s) := takeSets_trip trip first unfaulted
    obtain ⟨p, h⟩ := handed
    obtain ⟨sq, wu, lu⟩ := h.idle (tripCount_later _ _) idle
    have holds : ∃ d : Fin 8, (holdingSet s none).getLsbD d = true :=
      ⟨e, by rw [actsBy, Bool.and_eq_true] at trip; exact trip.1⟩
    refine ⟨wu, lu, by rw [h.ru]; rfl, fun k => ?_, fun untripped => ?_, fun d trips' first' => ?_⟩
    · rw [h.raised, quiet, getLsbD_bitInsert, getLsbD_bitInsert]
      simp only [holds, trips, and_true]
      revert k; decide
    · rw [untripped] at trip; exact absurd trip Bool.false_ne_true
    · have same : d = e := by
        rcases lt_trichotomy d e with lt | same | gt
        · rw [first d lt] at trips'; exact absurd trips' Bool.false_ne_true
        · exact same
        · rw [first' e gt] at trip; exact absurd trip Bool.false_ne_true
      rw [sq, same]; exact ⟨rfl, rfl⟩
  · have untripped : ∀ e, actsBy (holdingSet s none) s.ls.table 3 e = false := fun e => by
      rw [Bool.eq_false_iff]; exact fun k => trips ⟨e, k⟩
    have h : Handed _ _ s (evaluateLevels s) := takeSets_untripped untripped
    have sq := h.sq
    rw [Sequencer.heldByEntry_dead dead, ite_self, Sequencer.afterHolds_other (by rw [idle]; decide)] at sq
    refine ⟨h.wu, h.lu, ?_, fun k => ?_, fun _ => by rw [sq]; exact idle, fun e trip => absurd ⟨e, trip⟩ trips⟩
    · rw [h.ru]; split <;> rfl
    · have any : ((List.finRange 8).any fun e => (holdingSet s none).getLsbD e) = true ↔
          ∃ e : Fin 8, (holdingSet s none).getLsbD e = true := by simp
      rw [h.ru, ← any]
      simp only [trips, and_false, or_false]
      split
      case isTrue raised =>
        rw [raised, ReportUnit.raised, quiet, getLsbD_bitInsert]
        revert k; decide
      case isFalse still => exact iff_of_false (by simp [quiet]) fun h => still h.2

/-- The levels evaluation leaves an idle show IDLE or TRIPPED. -/
theorem LevelsTaken.resting {s u : State} (h : LevelsTaken s u) : u.sq.state.resting = true := by
  by_cases trips : ∃ e, actsBy (holdingSet s none) s.ls.table 3 e = true
  · obtain ⟨e, trip, first⟩ := exists_lowest trips
    rw [(h.tripped e trip first).1]; rfl
  · rw [h.idle fun e => Bool.eq_false_iff.mpr fun k => trips ⟨e, k⟩]; rfl

theorem ShowState.not_winddown_of_resting {x : ShowState} (h : x.resting = true) : x ≠ .winddown := fun down => by
  rw [down] at h; exact Bool.false_ne_true h

/-! ## The first periods (R108, R138) -/

/-- A period does not complete a wind-down that is not there. -/
theorem winddownTest_other {s : State} (h : s.sq.state ≠ .winddown) : winddownTest s = s :=
  winddownTest_unmet fun done => h ((winddownDone_iff s).mp done).1

theorem firstPeriods {s : State} (h : s.sq.state ≠ .winddown) :
    takeColourPeriod (takeFieldPeriod s) = noteColourPeriod (lightPeriod (waterPeriod s)) := by
  have field : takeFieldPeriod s = waterPeriod s := winddownTest_other h
  rw [field]
  exact winddownTest_other (s := noteColourPeriod (lightPeriod (waterPeriod s))) h

/-- The first field frame has every valve closed and every speed 0 (R108, R113). -/
theorem waterPeriod_first {s : State} (h : s.wu = WaterUnit.reset) : (waterPeriod s).wu =
    { WaterUnit.reset with
      frameCount := 1, link := .frame (FieldFrame.compose 0 0 (Vector.replicate 16 0)) } := by
  have rest : WaterDone s.wu := by rw [h]; exact ⟨getFin_replicate 0, rfl⟩
  obtain ⟨output, applied⟩ := waterPeriod_rest rest fun p => by rw [h]; exact getFin_replicate 0 p
  have deferred : (waterPeriod s).wu.deferred = 0 := by
    have same : (waterPeriod s).wu.deferred = s.wu.deferred &&& stillBlocked (rampPumps s) := rfl
    rw [same, h]; exact BitVec.zero_and
  have whole : (waterPeriod s).wu = { s.wu with
      applied := (waterPeriod s).wu.applied, deferred := (waterPeriod s).wu.deferred, output := (waterPeriod s).wu.output
      link := .frame (FieldFrame.compose s.wu.frameCount (waterPeriod s).wu.applied (waterPeriod s).wu.output)
      frameCount := s.wu.frameCount + 1 } := rfl
  rw [whole, output, applied, deferred, h]
  rfl

theorem fadeStep_dark : LightGroup.dark.fadeStep = LightGroup.dark := rfl

theorem tabulate_const {α : Type} {n : Nat} (v : α) : (tabulate fun _ : Fin n => v) = Vector.replicate n v :=
  vector_ext_fin fun i => by rw [getFin_tabulate, getFin_replicate]

/-- The first colour frame has every lamp dark, from the level CLD+ was held at (R138, R150, R151). -/
theorem lightPeriod_first {s : State} (h : s.lu = LightUnit.reset) : (lightPeriod s).lu =
    { LightUnit.reset with
      frameCount := 1, link := .frame (ColourFrame.compose 0 (Vector.replicate 64 Colour.black)) false } := by
  have dark : ∀ g : Fin 64, (stepFades s).lu.groups[g] = LightGroup.dark := fun g => by
    have stepped : (stepFades s).lu.groups[g] = s.lu.groups[g].fadeStep := groups_mapGroups s.lu _ g
    rw [stepped, h]; exact (congrArg LightGroup.fadeStep (getFin_replicate LightGroup.dark g)).trans fadeStep_dark
  have groups : (stepFades s).lu.groups = Vector.replicate 64 LightGroup.dark :=
    vector_ext_fin fun g => by rw [dark, getFin_replicate]
  have outputs : tabulate (groupOutput (stepFades s)) = Vector.replicate 64 Colour.black := by
    rw [← tabulate_const]
    refine tabulate_congr fun g => ?_
    rw [groupOutput, dark]
    split <;> rfl
  have stepped : (stepFades s).lu = { s.lu with groups := Vector.replicate 64 LightGroup.dark } := by
    rw [← groups]; rfl
  have whole : (lightPeriod s).lu = { (stepFades s).lu with
      link := .frame (ColourFrame.compose (stepFades s).lu.frameCount (tabulate (groupOutput (stepFades s))))
        (stepFades s).lu.link.restLevels.1
      frameCount := (stepFades s).lu.frameCount + 1 } := rfl
  rw [whole, outputs, stepped, h]
  rfl

/-- The wind gate started and the first field and colour period taken, none of which completes a wind-down (R108, R131,
R138). -/
def startPeriods (u : State) : State := noteColourPeriod (lightPeriod (waterPeriod (startGate u)))

/-- What the first periods leave of the part after its levels evaluation, with water and light as reset left them. -/
structure PeriodsStarted (u w : State) : Prop where
  sq : w.sq = { u.sq with colourTaken := true }
  fu : w.fu = u.fu
  au : w.au = u.au
  wu : u.wu = WaterUnit.reset → w.wu = { WaterUnit.reset with
    frameCount := 1, link := .frame (FieldFrame.compose 0 0 (Vector.replicate 16 0)) }
  lu : u.lu = LightUnit.reset → w.lu = { LightUnit.reset with
    frameCount := 1, link := .frame (ColourFrame.compose 0 (Vector.replicate 64 Colour.black)) false }
  gu : w.gu = { u.gu with gate := some u.ls.gate }
  ls : w.ls = u.ls
  pu : w.pu = u.pu
  ru : w.ru = u.ru
  mem : w.mem = u.mem
  inReset : w.inReset = u.inReset

/-- The periods of water and light leave every other block. -/
theorem periods_frame (s : State) : lightPeriod (waterPeriod s) =
    (s.setWu (waterPeriod s).wu).setLu (lightPeriod (waterPeriod s)).lu := by
  rw [← waterPeriod_frame, ← lightPeriod_frame]

theorem startPeriods_started (u : State) : PeriodsStarted u (startPeriods u) := by
  have water : u.wu = _ → _ := waterPeriod_first (s := startGate u)
  have lu : (waterPeriod (startGate u)).lu = u.lu := by rw [waterPeriod_frame]; rfl
  have light := lightPeriod_first (s := waterPeriod (startGate u))
  rw [lu] at light
  rw [startPeriods, periods_frame]
  revert water light
  generalize (lightPeriod (waterPeriod (startGate u))).lu = y
  generalize (waterPeriod (startGate u)).wu = x
  exact fun water light => ⟨rfl, rfl, rfl, water, light, rfl, rfl, rfl, rfl, rfl, rfl⟩

/-! ## The release (R117, R124, R131, R153, R167) -/

/-- The part as the release samples it, with the table state recomputed. -/
def sampled (straps : BitVec 6) (senses : Half) (s : State) : State :=
  recomputeTable (sampleSenses senses (sampleStraps straps { s with inReset := false }))

theorem endReset_eq {straps : BitVec 6} {senses : Half} {s : State} (asserted : s.inReset = true)
    (state : (evaluateLevels (sampled straps senses s)).sq.state ≠ .winddown) :
    endReset straps senses s = startPeriods (evaluateLevels (sampled straps senses s)) :=
  (if_pos asserted).trans (firstPeriods (s := startGate (evaluateLevels (sampled straps senses s))) state)

theorem getLsbD_sampled (straps : BitVec 6) (senses : Half) (s : State) (e : Fin 8) :
    (holdingSet (sampled straps senses s) none).getLsbD e =
      (decide (s.ls.table.state = .valid) && s.ls.table.patternHolds e senses none) := getLsbD_holdingSet _ none e

theorem evaluateLevels_showOnly (s : State) : ShowOnly
    (withSets (holdingSet s none) (holdingSet s none &&& latchingSet s) s) (evaluateLevels s) := takeSets_showOnly _ _ _ _

/-- With no cause enabled ATTN_N is not asserted (R186). -/
theorem settle_attention_none {s : State} (none : s.ru.enable = 0) : (settle s).ru.attention = false := by
  have due : (settle s).ru.attention = attentionDue s.ru := rfl
  rw [due, attentionDue, none]; simp

/-- At rest nothing is fetched (R34). -/
theorem settle_fetchRequest_resting {s : State} (resting : s.sq.state.resting = true) :
    (settle s).fu.fetchRequest = false :=
  (settle_fetchRequest s).trans (wantsFetch_resting (ShowState.not_live_of_resting resting))

end Sys2Proof.Machine

open Sys2Proof Sys2Proof.Machine

/-- Settles O55: samples, levels evaluation, wind gate and first periods, one after another (log entry 14). -/
theorem resetReleaseStartsThePart : Obligations.ResetReleaseStartsThePart := by
  unfold Obligations.ResetReleaseStartsThePart
  intro s straps senses asserted sound
  obtain ⟨sq, fu, au, wu, lu, ru, gu, -, -, -, -, -, -⟩ := sound asserted
  have only := evaluateLevels_showOnly (sampled straps senses s)
  have taken := evaluateLevels_idle (s := sampled straps senses s) (congrArg Sequencer.state sq)
    (congrArg ReportUnit.pending ru)
  have row : exec (.resetRelease straps senses) s = answer (endReset straps senses s) := rfl
  rw [endReset_eq asserted (ShowState.not_winddown_of_resting taken.resting), answer_eq] at row
  have moves := getLsbD_sampled straps senses s
  have latches : ∀ e : Fin 8, (latchingSet (sampled straps senses s)).getLsbD e = s.ls.table.latching e :=
    getLsbD_latchingSet (sampled straps senses s)
  have started := startPeriods_started (evaluateLevels (sampled straps senses s))
  refine ⟨_, row, ?_⟩
  clear row
  revert only taken started
  generalize evaluateLevels (sampled straps senses s) = u
  generalize startPeriods u = w
  intro only taken started
  have request := settle_fetchRequest_resting (s := w) (by rw [started.sq]; exact taken.resting)
  have enable : w.ru.enable = 0 := by rw [started.ru, taken.ru]; exact congrArg ReportUnit.enable ru
  have attention := settle_attention_none enable
  have done := eventEnd w
  revert request attention done
  generalize settle w = t
  intro request attention done holds
  have table : (sampled straps senses s).ls.table = s.ls.table := rfl
  have trip : ∀ e : Fin 8, actsBy (holdingSet (sampled straps senses s) none) (sampled straps senses s).ls.table 3 e = true ↔
      holds e = true ∧ s.ls.table.entryAction e = 3 := fun e => by
    rw [actsBy, moves, Bool.and_eq_true, decide_eq_true_iff, table]
  have untripped : ∀ e : Fin 8, (holds e = true → s.ls.table.entryAction e ≠ 3) →
      actsBy (holdingSet (sampled straps senses s) none) (sampled straps senses s).ls.table 3 e = false := fun e other =>
    Bool.eq_false_iff.mpr fun k => other ((trip e).mp k).1 ((trip e).mp k).2
  have sequencer : t.sq = { u.sq with colourTaken := true } := done.sq.trans started.sq
  have limits : u.ls = { s.ls with tableState := s.ls.table.state } := only.ls
  have guard : t.gu = { u.gu with gate := some u.ls.gate } := done.gu.trans started.gu
  rw [only.gu, limits, LimitStore.gate_eq] at guard
  have path : t.pu = { u.pu with waitCount := t.pu.waitCount, arbiter := t.pu.arbiter } := done.path.of_eq started.pu
  rw [only.pu] at path
  refine ⟨?_, ?_, ?_, ?_, ?_, fun i => ?_, ?_, ?_, ?_, ?_, fun e => ?_, fun other => ?_, fun e holding action first => ?_,
    ?_, ?_, fun k => ?_, ?_, ?_, ?_, ?_, fun a => ?_⟩
  · exact done.ground.1.trans (started.inReset.trans only.inReset)
  · rw [path]; rfl
  · have carried : t.pu.carried = !s.pu.assembling.isEmpty := by rw [path]; rfl
    rw [carried]; simp
  · rw [guard]; rfl
  · rw [guard]; rfl
  · rw [guard]; exact getFin_replicate none i
  · rw [guard]; exact congrArg GuardUnit.band gu
  · rw [guard]; exact congrArg GuardUnit.pulses gu
  · exact done.ls.trans (started.ls.trans limits)
  · rw [guard]
  · rw [guard, ← latches]
    simp only [holds, ← moves]
    exact ⟨rfl, BitVec.getLsbD_and⟩
  · rw [sequencer]; exact taken.idle fun e => untripped e (other e)
  · rw [sequencer]
    exact taken.tripped e ((trip e).mpr ⟨holding, action⟩) fun d lt => untripped d (first d lt)
  · rw [done.wu, started.wu (taken.wu.trans wu), wu]
  · rw [done.lu, started.lu (taken.lu.trans lu), lu]
  · rw [done.causes, started.ru]
    refine (taken.causes k).trans ?_
    simp only [trip, moves]
    rfl
  · rw [done.report, started.ru, taken.ru, attention]; rfl
  · rw [done.report]; exact enable
  · rw [done.fetch, request, started.fu, only.fu]
    exact (congrArg (fun x : FetchUnit => { x with fetchRequest := false }) fu).trans fu.symm
  · exact done.au.trans (started.au.trans only.au)
  · exact (done.ground.2 a).trans (congrArg (Memory.read · a) (started.mem.trans only.mem))

end

section
/-! Proofs: AMBIENT, and the colour period with its fades, outputs, frame and line. -/

namespace Sys2Proof.Machine

/-! ## AMBIENT (R149) -/

/-- Each light group after an accepted AMBIENT (R149). -/
theorem groups_takeAmbient (s : State) (g : Fin 64) :
    (takeAmbient s).lu.groups[g] = { s.lu.groups[g] with
      target := colourOfWord s.ru.arg0, fade := s.ru.arg1.extractLsb' 0 10, follow := none, scale := 0 } := by
  rw [takeAmbient, ambientLight, lu_setLu, groups_mapGroups, ofNat_toNat_eq_extract _ (by decide)]
  rfl

/-! ## Fades (R139) -/

/-- The share of a distance is no more than the distance. -/
theorem fadeShare_le (distance : Nat) {n : Nat} (pos : 0 < n) : fadeShare distance n ≤ distance := by
  have spread : distance ≤ distance * n := Nat.le_mul_of_pos_right distance pos
  rw [fadeShare, ← Nat.lt_succ_iff, Nat.div_lt_iff_lt_mul pos, Nat.succ_mul]
  omega

/-- A component moves by its share of the distance, without leaving the byte. -/
theorem toNat_fadeComponent {n : Nat} (pos : 0 < n) (c t : Byte) : (fadeComponent n c t).toNat =
    if c.toNat < t.toNat then c.toNat + fadeShare (t.toNat - c.toNat) n
    else c.toNat - fadeShare (c.toNat - t.toNat) n := by
  have up := fadeShare_le (t.toNat - c.toNat) pos
  have lowest := c.isLt
  have highest := t.isLt
  unfold fadeComponent
  split <;> exact (BitVec.toNat_ofNat ..).trans (Nat.mod_eq_of_lt (by omega))

/-- A group without a fade takes its target. -/
theorem LightGroup.fadeStep_taken {g : LightGroup} (none : g.fade = 0) : g.fadeStep = { g with current := g.target } :=
  if_pos none

/-- A group with fade periods remaining takes one of them. -/
theorem LightGroup.fadeStep_fading {g : LightGroup} (some : g.fade ≠ 0) : g.fadeStep =
    { g with current := fadeColour g.fade.toNat g.current g.target, fade := g.fade - 1 } :=
  if_neg some

/-- A colour period changes the current colour and the fade alone. -/
theorem LightGroup.fadeStep_frame (g : LightGroup) :
    g.fadeStep = { g with current := g.fadeStep.current, fade := g.fadeStep.fade } := by
  by_cases none : g.fade = 0
  · rw [fadeStep_taken none]
  · rw [fadeStep_fading none]

theorem LightGroup.fadeStep_target (g : LightGroup) : g.fadeStep.target = g.target := by rw [fadeStep_frame]

/-- The periods remaining fall by one, and stay at 0. -/
theorem LightGroup.toNat_fade_fadeStep (g : LightGroup) : g.fadeStep.fade.toNat = g.fade.toNat - 1 := by
  by_cases none : g.fade = 0
  · rw [fadeStep_taken none, none]; rfl
  · rw [fadeStep_fading none]
    exact BitVec.toNat_sub_of_le (BitVec.le_def.mpr (Nat.pos_of_ne_zero fun z => none (BitVec.eq_of_toNat_eq z)))

theorem LightGroup.iterate_fadeStep_target (g : LightGroup) (k : Nat) : (fadeStep^[k] g).target = g.target := by
  induction k with
  | zero => rfl
  | succ k ih => rw [Function.iterate_succ_apply', fadeStep_target, ih]

/-- After k colour periods k fewer remain. -/
theorem LightGroup.toNat_fade_iterate (g : LightGroup) (k : Nat) : (fadeStep^[k] g).fade.toNat = g.fade.toNat - k := by
  induction k with
  | zero => rfl
  | succ k ih => rw [Function.iterate_succ_apply', toNat_fade_fadeStep, ih, Nat.sub_sub]

/-- A fade has ended, at its target, once as many colour periods as it had remaining, and at least one, are over (R139,
R140). -/
theorem LightGroup.iterate_fadeStep_finished (g : LightGroup) : (fadeStep^[max 1 g.fade.toNat] g).fade = 0 ∧
    (fadeStep^[max 1 g.fade.toNat] g).current = g.target := by
  obtain ⟨m, last⟩ : ∃ m, max 1 g.fade.toNat = m + 1 := ⟨max 1 g.fade.toNat - 1, by omega⟩
  have one : (fadeStep^[m] g).fade.toNat ≤ 1 := by rw [toNat_fade_iterate]; omega
  obtain ⟨ended, reached⟩ := fadeStep_finished one
  rw [last, Function.iterate_succ_apply', ← iterate_fadeStep_target g (m + 1), Function.iterate_succ_apply']
  exact ⟨ended, reached⟩

/-! ## Outputs (R144) -/

/-- A scale is at most the full magnitude, so that a scaled component stays in its byte. -/
theorem toNat_scaleComponent (scale : BitVec 15) (c : Byte) :
    (scaleComponent scale c).toNat = min 255 (c.toNat * scale.toNat / 32767) := by
  have fits : c.toNat * scale.toNat / 32767 ≤ 255 :=
    Nat.div_le_of_le_mul ((Nat.mul_le_mul (Nat.le_pred_of_lt c.isLt) (Nat.le_pred_of_lt scale.isLt)).trans (by decide))
  rw [Nat.min_eq_right fits]
  exact (BitVec.toNat_ofNat ..).trans (Nat.mod_eq_of_lt (Nat.lt_succ_of_le fits))

theorem groupOutput_dark {s : State} {g : Fin 64} (dark : (s.ls.table.submerged g && anyMatched s .dark) = true) :
    groupOutput s g = Colour.black := if_pos dark

theorem groupOutput_following {s : State} {g : Fin 64} {c : Fin 4}
    (lit : ¬(s.ls.table.submerged g && anyMatched s .dark) = true) (bound : s.lu.groups[g].follow = some c) :
    groupOutput s g = s.lu.groups[g].current.scaled s.lu.groups[g].scale := by
  refine (if_neg lit).trans ?_
  rw [bound]

theorem groupOutput_unbound {s : State} {g : Fin 64}
    (lit : ¬(s.ls.table.submerged g && anyMatched s .dark) = true) (free : s.lu.groups[g].follow = none) :
    groupOutput s g = s.lu.groups[g].current := by
  refine (if_neg lit).trans ?_
  rw [free]

/-! ## The line (R151) -/

/-- CLD+ changes at the start of a cell, from the level before it, and again at its middle for a 1. -/
theorem ColourLink.levels_bit (f : ColourFrame) (before : Bool) {n : Nat} {bit : Bool} (h : f.bits[n]? = some bit) :
    ((ColourLink.frame f before).levels (2 * n)).1 =
      (!if n = 0 then before else ((ColourLink.frame f before).levels (2 * n - 1)).1) ∧
    ((ColourLink.frame f before).levels (2 * n + 1)).1 = (((ColourLink.frame f before).levels (2 * n)).1 != bit) := by
  cases n with
  | zero =>
    have cell : (colourCells before f.bits)[0]? = some (!before, !before != bit) := by
      match bits : f.bits, h with
      | x :: rest, h => cases Option.some.inj h; exact colourCells_zero before _ rest
    obtain ⟨first, second⟩ := levels_cell f before cell
    rw [first, second]
    exact ⟨rfl, (Bool.not_bne ..).symm⟩
  | succ n =>
    have inside : n < (colourCells before f.bits).length := by
      obtain ⟨lt, -⟩ := List.getElem?_eq_some_iff.mp h
      rw [length_colourCells]; omega
    have earlier := List.getElem?_eq_getElem inside
    obtain ⟨first, second⟩ := levels_cell f before (colourCells_succ before f.bits n _ bit earlier h)
    obtain ⟨-, ended⟩ := levels_cell f before earlier
    rw [first, second, show 2 * (n + 1) - 1 = 2 * n + 1 by omega, ended]
    exact ⟨rfl, (Bool.not_bne ..).symm⟩

/-! ## The bits of a frame (R150, R189) -/

/-- The bits between sync word and check code: the count, and the four slots of each group (R150, section 11.5). -/
theorem bitsOfBytes_colourBody (count : Byte) (outputs : Vector Colour 64) : bitsOfBytes (colourBody count outputs) =
    msbFirst 8 count.toNat ++ (outputs.toList.flatMap fun c => [c.red, c.green, c.blue, c.white]).flatMap
      fun b => msbFirst 8 b.toNat := by
  rw [colourBody, bitsOfBytes_append]; rfl

/-- The bits of a composed frame: sync word, body and the check code of the body (R150, R189). -/
theorem ColourFrame.bits_compose (count : Byte) (outputs : Vector Colour 64) :
    (ColourFrame.compose count outputs).bits = msbFirst 16 0xC3A6 ++ bitsOfBytes (colourBody count outputs) ++
      msbFirst 16 (crc16Bits (bitsOfBytes (colourBody count outputs))).toNat := by
  rw [ColourFrame.bits, bitsOfBytes_append, bitsOfBytes_append, bitsOfBytes_halfBytes, bitsOfBytes_halfBytes, ← crc16_eq]
  rfl

/-! ## The colour period (R138) -/

theorem takeColourPeriod_lu (s : State) : (takeColourPeriod s).lu = (lightPeriod s).lu :=
  (winddownTest_beside (colourStep s)).2.1

/-- A colour period outside WINDDOWN is noted, and completes nothing. -/
theorem takeColourPeriod_other {s : State} (h : s.sq.state ≠ .winddown) : takeColourPeriod s = colourStep s :=
  winddownTest_other (s := colourStep s) h

/-- The link after a colour period: the frame of the stepped groups' outputs, begun from the level of CLD+ (R138, R151). -/
theorem lightPeriod_link (s : State) : (lightPeriod s).lu.link =
    .frame (ColourFrame.compose s.lu.frameCount (tabulate (groupOutput (stepFades s)))) s.lu.link.restLevels.1 := rfl

end Sys2Proof.Machine

open Sys2Proof Sys2Proof.Machine

/-- Settles O20: AMBIENT by show state and ARG1. -/
theorem ambientFadesEveryGroup : Obligations.AmbientFadesEveryGroup := by
  unfold Obligations.AmbientFadesEveryGroup
  intro s burst path
  have outcome : s.sq.state = .idle → ambientOutcome s = argOutcome (decide (s.ru.arg1.toNat ≤ 1023)) :=
    fun idle => stateThenArg_of_state _ (by simp [inState, idle])
  refine ⟨fun idle range => ?_, fun idle range => ?_, fun other => ?_⟩
  · refine completes_accepted (act := takeAmbient) rfl path (by rw [outcome idle, decide_eq_true range]; rfl) rfl rfl
      fun t done => ?_
    rw [done.lu]
    exact ⟨groups_takeAmbient s, rfl, rfl, rfl, ⟨done.sq, done.au⟩, done.wu, done.gu, done.ls, done.ground, done.fetch,
      done.posted, done.recorded⟩
  · exact completes_refused rfl path (by rw [outcome idle, decide_eq_false (by omega)]; rfl) (by decide)
  · exact completes_refused rfl path (stateThenArg_refused _ (by simp [inState, other])) (by decide)

/-- Settles O49: the fade step and the output of each group, the length of a fade, the levels of the line, and the bits of
the frame. -/
theorem colourPeriodStepsFades : Obligations.ColourPeriodStepsFades := by
  unfold Obligations.ColourPeriodStepsFades
  refine ⟨fun s out => ?_, fun g => ⟨fun k _ => g.toNat_fade_iterate k, g.iterate_fadeStep_finished⟩,
    fun f before => ⟨ColourLink.levels_reverse _, fun _ _ => ColourLink.levels_bit f before,
      fun half rest => by dsimp only; rw [ColourLink.levels_rest f before rest]⟩, fun count outputs => ?_⟩
  · obtain ⟨wu, -⟩ := winddownTest_beside (colourStep s)
    have others := winddownTest_others (s := s) (w := colourStep s) rfl rfl rfl rfl rfl
    have lu : (settle (takeColourPeriod s)).lu = (lightPeriod s).lu := takeColourPeriod_lu s
    refine completes_event (f := takeColourPeriod) rfl out
      ⟨fun g => ?_, ⟨tabulate (groupOutput (stepFades s)), ?_, fun g => ?_⟩, ?_, ?_, fun other => ?_,
        (settle_wu _).trans wu, others⟩
    · rw [lu, lightPeriod_groups]
      dsimp only
      by_cases none : s.lu.groups[g].fade = 0
      · rw [LightGroup.fadeStep_taken none]
        simp only [if_pos none, true_and, and_true]
        exact none
      · have pos : 0 < s.lu.groups[g].fade.toNat := Nat.pos_of_ne_zero fun z => none (BitVec.eq_of_toNat_eq z)
        rw [LightGroup.fadeStep_fading none]
        simp only [if_neg none, and_true]
        exact ⟨toNat_fadeComponent pos _ _, toNat_fadeComponent pos _ _, toNat_fadeComponent pos _ _,
          toNat_fadeComponent pos _ _⟩
    · rw [lu, lightPeriod_link]
      cases s.lu.link <;> rfl
    · have stepped : (lightPeriod s).lu.groups[g] = (stepFades s).lu.groups[g] := rfl
      rw [lu, getFin_tabulate, stepped]
      dsimp only
      by_cases dark : (s.ls.table.submerged g && anyMatched s .dark) = true
      · simp only [if_pos dark, groupOutput_dark (s := stepFades s) dark]
        exact ⟨rfl, rfl, rfl, rfl⟩
      · simp only [if_neg dark]
        cases bound : (stepFades s).lu.groups[g].follow with
        | none =>
          rw [groupOutput_unbound (s := stepFades s) dark bound]
          exact ⟨rfl, rfl, rfl, rfl⟩
        | some c =>
          rw [groupOutput_following (s := stepFades s) dark bound]
          exact ⟨toNat_scaleComponent _ _, toNat_scaleComponent _ _, toNat_scaleComponent _ _, toNat_scaleComponent _ _⟩
    · rw [lu]; rfl
    · rw [lu]; rfl
    · obtain ⟨sq, au, fetch, path⟩ := goesOn_settle (s := s) (w := colourStep s) rfl rfl rfl
      rw [takeColourPeriod_other other]
      exact ⟨sq, au, fetch, path⟩
  · dsimp only
    rw [← bitsOfBytes_colourBody]
    exact ColourFrame.bits_compose count outputs

end

section
/-! Proofs: the limit commands, the tests of R158 and the staging words. -/

namespace Sys2Proof.Machine

/-! ## Words forwarded alone -/

/-- A partial write to the command page, but to SHOW_CMD, or to a staging word is decided without a capture: the word is
forwarded alone (R157, R171). -/
theorem decideWord_partial {w : BusWrite} {progEn : Bool} {s : State} (path : PathDecides w.burst s)
    (base : inWindow s.pu.base w.address = true)
    (region : regionOfOffset (windowOffset w.address) = .commandPage ∨ regionOfOffset (windowOffset w.address) = .staging)
    (other : windowOffset w.address ≠ Config.showCmd) (enables : w.enables ≠ 15) :
    decideWord w progEn s = pushWord w false s := by
  have admits : refusesWord s w.address = false := by
    rw [refusesWord, regionOf, if_pos base]
    rcases region with region | region <;> rw [region]
  have capture : captureWord w progEn s = s := by rw [captureWord, if_pos base, if_neg enables, if_neg other]
  unfold decideWord
  rw [transparent_decides path, admits, capture]
  simp

/-- A written word that is decided without a capture completes with the word forwarded and everything else as before. -/
theorem completes_forwarded {w : BusWrite} {progEn : Bool} {s : State} (decided : decideWord w progEn s = pushWord w false s) :
    Completes (.processorWrite w progEn) s fun t =>
      ShowKept s t ∧ PlantKept s t ∧ GroundKept s t ∧ FetchKept s t ∧ ReportKept s t ∧ Forwarded w s t := by
  have row : exec (.processorWrite w progEn) s = answer (pushWord w false s) := by rw [← decided]; rfl
  have done := captureDone_settle w s
  exact ⟨_, row, ⟨done.sq, done.au⟩, done.plant, done.ground, done.fetch, done.report, done.path⟩

/-- What a captured word leaves whose capture touches the limit store alone. -/
theorem CaptureDone.limitsOnly {w : BusWrite} {x : LimitStore} {s t : State} (h : CaptureDone w (s.setLs x) t) :
    t.ls = x ∧ ShowKept s t ∧ t.wu = s.wu ∧ t.lu = s.lu ∧ t.gu = s.gu ∧ GroundKept s t ∧ FetchKept s t ∧ ReportKept s t ∧
      Forwarded w s t := by
  obtain ⟨wu, lu, gu, ls⟩ := h.plant
  exact ⟨ls, ⟨h.sq, h.au⟩, wu, lu, gu, h.ground.of_eq rfl rfl, h.fetch.of_eq rfl, h.report.of_eq rfl, h.path.of_eq rfl⟩

/-! ## Staging (R157, R163) -/

/-- The limit store after a full write to a staging word (R157, R163). -/
def LimitStore.stage (x : LimitStore) (i : Fin 16) (value : Word) : LimitStore :=
  if x.programming = true then x
  else { x with staging := x.staging.set i.val value i.isLt, marks := bitInsert x.marks i.val }

theorem captureStaging_eq (i : Fin 16) (value : Word) (s : State) :
    captureStaging i value s = s.setLs (s.ls.stage i value) := by
  unfold captureStaging LimitStore.stage; split <;> rfl

/-! ## The words of the limit commands (R187) -/

theorem limitCode_limitWord (upper : Half) (rowField code : Byte) : limitCode (limitWord upper rowField code) = code := by
  unfold limitCode limitWord
  exact BitVec.extractLsb'_append_eq_right

theorem limitRowField_limitWord (upper : Half) (rowField code : Byte) :
    limitRowField (limitWord upper rowField code) = rowField := by
  unfold limitRowField limitWord
  ext i h
  simp only [BitVec.getElem_extractLsb', BitVec.getLsbD_append]
  simp [h]

/-- The code and the row field of a word pass test 2 of R158. -/
abbrev lawfulFields (w : Word) : Prop :=
  (limitCode w).toNat = 1 ∧ (limitRowField w).toNat ≤ 31 ∨ (limitCode w).toNat = 2 ∨ (limitCode w).toNat = 3 ∨
    (limitCode w).toNat = 4

/-- What a word that carries each limit command says in its fields, and that a word without one is unlawful. -/
def carries (w : Word) : Option LimitCommandKind → Prop
  | none => ¬lawfulFields w
  | some (.programRow r) => (limitCode w).toNat = 1 ∧ (limitRowField w).toNat = r.val
  | some .eraseAll => (limitCode w).toNat = 2
  | some .setLock => (limitCode w).toNat = 3
  | some .clearStaging => (limitCode w).toNat = 4

theorem carries_limitCommandOf (w : Word) : carries w (limitCommandOf w) := by
  unfold limitCommandOf
  split
  case h_1 code =>
    split
    case isTrue => exact ⟨code, rfl⟩
    case isFalse range => simp only [carries, lawfulFields]; omega
  case h_2 code => exact code
  case h_3 code => exact code
  case h_4 code => exact code
  case h_5 one two three four => exact fun lawful => lawful.elim (fun h => one h.1) (·.elim two (·.elim three four))

theorem limitCommandOf_eq_none {w : Word} (unlawful : ¬lawfulFields w) : limitCommandOf w = none := by
  have fields := carries_limitCommandOf w
  cases command : limitCommandOf w with
  | none => rfl
  | some c =>
    rw [command] at fields
    refine absurd ?_ unlawful
    cases c with
    | programRow r => exact .inl ⟨fields.1, le_of_eq_of_le fields.2 (Nat.le_of_lt_succ r.isLt)⟩
    | eraseAll => exact .inr (.inl fields)
    | setLock => exact .inr (.inr (.inl fields))
    | clearStaging => exact .inr (.inr (.inr fields))

theorem limitCommandOf_programRow (row : Fin 32) (upper : Half) :
    limitCommandOf (limitWord upper (BitVec.ofNat 8 row.val) 0x01) = some (.programRow row) := by
  have field : (BitVec.ofNat 8 row.val).toNat = row.val := by rw [BitVec.toNat_ofNat]; omega
  simp [limitCommandOf, limitCode_limitWord, limitRowField_limitWord, field]

theorem limitCommandOf_eraseAll (rowField : Byte) (upper : Half) :
    limitCommandOf (limitWord upper rowField 0x02) = some .eraseAll := by
  simp [limitCommandOf, limitCode_limitWord]

theorem limitCommandOf_setLock (rowField : Byte) (upper : Half) :
    limitCommandOf (limitWord upper rowField 0x03) = some .setLock := by
  simp [limitCommandOf, limitCode_limitWord]

theorem limitCommandOf_clearStaging (rowField : Byte) (upper : Half) :
    limitCommandOf (limitWord upper rowField 0x04) = some .clearStaging := by
  simp [limitCommandOf, limitCode_limitWord]

/-! ## The tests and the effect (R158, R159, R160) -/

/-- The tests of R158 one after another. -/
theorem limitOutcome_eq (w : Word) (progEn : Bool) (s : State) : limitOutcome w progEn s =
    if progEn = false then .refusedProgEn
    else if ¬lawfulFields w then .refusedArg
    else if s.sq.state ≠ .idle then .refusedState
    else if s.ls.operation.isSome = true then .refusedBusy
    else if (limitCode w).toNat = 1 ∧ s.ls.marks ≠ 0xFFFF then .refusedStaging
    else if (limitCode w).toNat = 1 ∧ s.ls.locked = true then .refusedLocked
    else .accepted := by
  have fields := carries_limitCommandOf w
  unfold limitOutcome
  cases progEn with
  | false => rfl
  | true =>
    cases command : limitCommandOf w with
    | none =>
      rw [command] at fields
      rw [if_pos (show ¬lawfulFields w from fields)]; rfl
    | some c =>
      have lawful : lawfulFields w := by
        by_contra unlawful
        rw [limitCommandOf_eq_none unlawful] at command; cases command
      rw [command] at fields
      rw [if_neg (not_not_intro lawful)]
      cases c with
      | programRow r =>
        have code : (limitCode w).toNat = 1 := fields.1
        simp only [code, true_and]; rfl
      | eraseAll =>
        have code : (limitCode w).toNat = 2 := fields
        simp [lawfulOutcome, code]
      | setLock =>
        have code : (limitCode w).toNat = 3 := fields
        simp [lawfulOutcome, code]
      | clearStaging =>
        have code : (limitCode w).toNat = 4 := fields
        simp [lawfulOutcome, code]

/-- A refused command leaves the record alone (R158). -/
theorem limitStoreAfter_refused {w : Word} {progEn : Bool} {s : State} (h : limitOutcome w progEn s ≠ .accepted) :
    limitStoreAfter w progEn s = s.ls.record w (limitOutcome w progEn s) := by
  unfold limitStoreAfter
  dsimp only
  cases limitCommandOf w with
  | none => rfl
  | some c => exact if_neg h

/-- An accepted command has its effect, and is recorded. -/
theorem limitStoreAfter_accepted {w : Word} {c : LimitCommandKind} {progEn : Bool} {s : State}
    (command : limitCommandOf w = some c) (h : limitOutcome w progEn s = .accepted) :
    limitStoreAfter w progEn s = (s.ls.accept c).record w .accepted := by
  unfold limitStoreAfter
  dsimp only
  rw [command, h]; rfl

/-- The record is made whatever the outcome, and no command changes the table, its state, the lock cell or the last
completion (R158 to R160). -/
theorem limitStoreAfter_record (w : Word) (progEn : Bool) (s : State) :
    let x := limitStoreAfter w progEn s
    x.outcome = limitOutcome w progEn s ∧ x.lastCommand = some { code := limitCode w, rowField := limitRowField w } ∧
    x.lastCompletion = s.ls.lastCompletion ∧ x.table = s.ls.table ∧ x.locked = s.ls.locked ∧
    x.tableState = s.ls.tableState := by
  by_cases accepted : limitOutcome w progEn s = .accepted
  · cases command : limitCommandOf w with
    | none =>
      unfold limitStoreAfter
      rw [command]; exact ⟨rfl, rfl, rfl, rfl, rfl, rfl⟩
    | some c =>
      rw [limitStoreAfter_accepted command accepted, accepted]
      cases c <;> exact ⟨rfl, rfl, rfl, rfl, rfl, rfl⟩
  · rw [limitStoreAfter_refused accepted]; exact ⟨rfl, rfl, rfl, rfl, rfl, rfl⟩

/-- In IDLE, with PROG_EN asserted and no operation in progress, a command is accepted, but for the tests that PROGRAM_ROW
has besides (R158). -/
theorem limitOutcome_accepted {w : Word} {c : LimitCommandKind} {s : State} (command : limitCommandOf w = some c)
    (idle : s.sq.state = .idle) (free : s.ls.operation = none)
    (row : ∀ r, c = .programRow r → s.ls.marks = 0xFFFF ∧ s.ls.locked = false) : limitOutcome w true s = .accepted := by
  have tests : limitOutcome w true s = lawfulOutcome c s := by rw [limitOutcome, command]; rfl
  rw [tests]
  unfold lawfulOutcome
  rw [if_neg (not_not_intro idle), free, if_neg (by simp)]
  cases c with
  | programRow r =>
    obtain ⟨marks, unlocked⟩ := row r rfl
    simp [LimitStore.rowOutcome, marks, unlocked]
  | eraseAll => rfl
  | setLock => rfl
  | clearStaging => rfl

/-- An accepted limit command completes with its effect, its record and the posted write alone. -/
theorem completes_limitCommand {i : Instr} {upper : Half} {rowField code : Byte} {c : LimitCommandKind} {burst : Bool}
    {s : State} {P : State → Prop}
    (instr : exec i s = answer (captured Config.limitCmd (limitWord upper rowField code) burst
      (takeLimitCommand (limitWord upper rowField code) true) s))
    (command : limitCommandOf (limitWord upper rowField code) = some c) (path : PathDecides burst s)
    (idle : s.sq.state = .idle) (free : s.ls.operation = none)
    (row : ∀ r, c = .programRow r → s.ls.marks = 0xFFFF ∧ s.ls.locked = false)
    (h : ∀ t : State,
      t.ls = { s.ls.accept c with lastCommand := some { code := code, rowField := rowField }, outcome := .accepted } →
      ShowKept s t ∧ t.wu = s.wu ∧ t.lu = s.lu ∧ t.gu = s.gu ∧ GroundKept s t ∧ FetchKept s t ∧ ReportKept s t → P t) :
    Completes i s P := by
  refine completes_captured instr path fun t done => ?_
  rw [takeLimitCommand, limitStoreAfter_accepted command (limitOutcome_accepted command idle free row)] at done
  obtain ⟨ls, kept, wu, lu, gu, ground, fetch, report, -⟩ := done.limitsOnly
  rw [LimitStore.record, limitCode_limitWord, limitRowField_limitWord] at ls
  exact h t ls ⟨kept, wu, lu, gu, ground, fetch, report⟩

/-- A full write to LIMIT_CMD is decided as a limit command (R158, R171). -/
theorem decideWord_limitCmd {w : BusWrite} {progEn : Bool} {s : State} (path : PathDecides w.burst s)
    (base : inWindow s.pu.base w.address = true) (offset : windowOffset w.address = Config.limitCmd)
    (enables : w.enables = 15) : decideWord w progEn s = pushWord w false (takeLimitCommand w.data progEn s) := by
  have admits : refusesWord s w.address = false := by rw [refusesWord, regionOf, if_pos base, offset]; rfl
  have capture : captureWord w progEn s = takeLimitCommand w.data progEn s := by
    rw [captureWord, if_pos base, if_pos enables, offset]; rfl
  unfold decideWord
  rw [transparent_decides path, admits, capture, enables]
  rfl

end Sys2Proof.Machine

open Sys2Proof Sys2Proof.Machine

/-- Settles O31: full writes by whether a PROGRAM_ROW is in progress, and partial writes. -/
theorem stagingWordCopied : Obligations.StagingWordCopied := by
  unfold Obligations.StagingWordCopied
  refine ⟨fun s i value burst path => ?_, fun s w progEn path base low high enables => ?_⟩
  · refine completes_captured rfl path fun t done => ?_
    rw [captureStaging_eq] at done
    obtain ⟨ls, others⟩ := done.limitsOnly
    refine ⟨?_, others⟩
    rw [ls, LimitStore.stage]
    split
    case isTrue => rfl
    case isFalse =>
      refine ⟨fun j => (getFin_set _ i j value).trans (if_congr eq_comm rfl rfl), fun j => ?_, rfl⟩
      rw [getLsbD_bitInsert, decide_eq_true i.isLt, Bool.true_and]
      simp only [Fin.ext_iff, eq_comm]
  · have region : regionOfOffset (windowOffset w.address) = .staging := by
      simp only [regionOfOffset, Config.statusBase, Config.limitViewBase, Config.stagingBase, Config.ordinaryBase]
      rw [if_neg (by omega), if_neg (by omega), if_neg (by omega), if_pos high]
    refine completes_forwarded (decideWord_partial path base (.inr region) ?_ enables)
    simp only [Config.showCmd]; omega

/-- Settles O33: each operation is begun by an accepted command. -/
theorem limitOperationsStart : Obligations.LimitOperationsStart := by
  unfold Obligations.LimitOperationsStart
  intro s upper rowField row burst path idle free
  refine ⟨fun marks unlocked => ?_, ?_, ?_⟩
  · exact completes_limitCommand rfl (limitCommandOf_programRow row upper) path idle free (fun _ _ => ⟨marks, unlocked⟩)
      fun t ls others => ⟨ls, others⟩
  · exact completes_limitCommand rfl (limitCommandOf_setLock rowField upper) path idle free nofun
      fun t ls others => ⟨ls, others⟩
  · exact completes_limitCommand rfl (limitCommandOf_eraseAll rowField upper) path idle free nofun
      fun t ls others => ⟨ls, others⟩

/-- Settles O34: an accepted CLEAR_STAGING leaves the cleared buffer and its record. -/
theorem stagingCleared : Obligations.StagingCleared := by
  unfold Obligations.StagingCleared
  intro s upper rowField burst path idle free
  refine completes_limitCommand rfl (limitCommandOf_clearStaging rowField upper) path idle free nofun
    fun t ls others => ?_
  rw [ls]
  exact ⟨getFin_replicate 0, rfl, others⟩

/-- Settles O32: full writes to LIMIT_CMD by the tests of R158, partial writes, and unlawful words. -/
theorem limitCommandIsTested : Obligations.LimitCommandIsTested := by
  unfold Obligations.LimitCommandIsTested
  refine ⟨fun s w progEn path base offset enables => ?_, fun s w progEn path base offset enables => ?_,
    fun s word progEn burst path unlawful => ?_⟩
  · intro code row outcome
    have tests : limitOutcome w.data progEn s = outcome := limitOutcome_eq w.data progEn s
    have decided : exec (.processorWrite w progEn) s = answer (pushWord w false (takeLimitCommand w.data progEn s)) := by
      rw [← decideWord_limitCmd path base offset enables]; rfl
    obtain ⟨ls, kept, wu, lu, gu, ground, fetch, report, forwarded⟩ :=
      (captureDone_settle w (takeLimitCommand w.data progEn s)).limitsOnly
    obtain ⟨result, command, completion, table, locked, state⟩ := limitStoreAfter_record w.data progEn s
    refine ⟨_, decided, ?_⟩
    beta_reduce
    rw [ls]
    refine ⟨result.trans tests, command, fun refused => ?_, completion, table, locked, state, kept, wu, lu, gu, ground,
      fetch, report, forwarded⟩
    rw [limitStoreAfter_refused (tests ▸ refused)]; rfl
  · have region : regionOfOffset (windowOffset w.address) = .commandPage := by rw [offset]; rfl
    exact completes_forwarded (decideWord_partial path base (.inl region) (by rw [offset]; decide) enables)
  · have fields : ¬lawfulFields word := by
      simpa only [WellFormed, lawfulLimitWord, Bool.not_eq_true', decide_eq_false_iff_not, lawfulFields,
        limitCode, limitRowField] using unlawful
    have outcome : limitOutcome word progEn s = if progEn then .refusedArg else .refusedProgEn := by
      rw [limitOutcome_eq, if_pos fields]; cases progEn <;> rfl
    have refused : limitOutcome word progEn s ≠ .accepted := by rw [outcome]; cases progEn <;> decide
    refine completes_captured rfl path fun t done => ?_
    rw [takeLimitCommand, limitStoreAfter_refused refused, outcome] at done
    exact done.limitsOnly

end

section
/-! Proofs: the state of a limit table, and its bytes after a completion. -/

namespace Sys2Proof.Machine

/-! ## Bytes (section 8.1) -/

/-- The byte at an index of a row. -/
theorem LimitTable.byte_of_row (x : LimitTable) {i j : Nat} (row : i < 32) (column : j < 64) :
    x.byte (64 * i + j) = x[i][j] := by
  have index : (64 * i + j) / 64 = i ∧ (64 * i + j) % 64 = j := by omega
  rw [byte, dif_pos (by omega)]
  simp only [index]

/-- Indices taken row by row are taken in ascending order. -/
theorem flatMap_range_rows {α : Type} (f : Nat → α) (n : Nat) (m : Nat) :
    ((List.range m).flatMap fun i => (List.range n).map fun j => f (n * i + j)) = (List.range (n * m)).map f := by
  induction m with
  | zero => rfl
  | succ m ih =>
    rw [List.range_succ, List.flatMap_append, ih, Nat.mul_succ, List.range_add, List.map_append, List.map_map]
    simp [Function.comp_def]

theorem LimitTable.bytes_eq (x : LimitTable) : x.bytes = (List.range 2048).map x.byte := by
  have rows : x.toList.map Vector.toList = (List.range 32).map fun i => (List.range 64).map fun j => x.byte (64 * i + j) := by
    refine List.ext_getElem (by simp) fun i row _ => ?_
    have row : i < 32 := by simpa using row
    refine List.ext_getElem (by simp) fun j column _ => ?_
    have column : j < 64 := by simpa using column
    simpa using (x.byte_of_row row column).symm
  rw [bytes, List.flatMap_def, rows, ← List.flatMap_def]
  exact flatMap_range_rows x.byte 64 32

theorem toNat_wordOfBytes (b0 b1 b2 b3 : Byte) : (wordOfBytes b0 b1 b2 b3).toNat =
    b0.toNat + 256 * b1.toNat + 65536 * (b2.toNat + 256 * b3.toNat) := by
  have h0 := b0.isLt
  have h1 := b1.isLt
  have h2 := b2.isLt
  have h3 := b3.isLt
  unfold wordOfBytes
  simp only [BitVec.toNat_append]
  rw [← Nat.shiftLeft_add_eq_or_of_lt h2, ← Nat.shiftLeft_add_eq_or_of_lt h1, ← Nat.shiftLeft_add_eq_or_of_lt h0]
  simp only [Nat.shiftLeft_eq]
  omega

/-! ## The table state (R153, R154) -/

theorem LimitTable.isErased_iff (x : LimitTable) : x.isErased = true ↔ ∀ n < 2048, (x.byte n).toNat = 255 := by
  rw [isErased, bytes_eq, List.all_map, List.all_eq_true]
  simp only [List.mem_range, Function.comp_apply, decide_eq_true_eq, Config.erasedByte, ← BitVec.toNat_inj]
  rfl

theorem LimitTable.checkHolds_iff (x : LimitTable) : x.checkHolds = true ↔
    (crc32Bits ((List.range 2044).flatMap fun n => lsbFirst (x.byte n))).toNat = x.half 2044 + 65536 * x.half 2046 := by
  have covered : x.bytes.take 2044 = (List.range 2044).map x.byte := by
    rw [bytes_eq, ← List.map_take, List.take_range]; rfl
  have stored : (x.word 2044).toNat = x.half 2044 + 65536 * x.half 2046 := toNat_wordOfBytes _ _ _ _
  rw [checkHolds, decide_eq_true_iff, covered, crc32_eq, List.flatMap_map, ← BitVec.toNat_inj, stored]

theorem LimitTable.pumpConsistent_iff (x : LimitTable) (p : Nat) : x.pumpConsistent p = true ↔
    (x.byte (16 * p)).toNat ≤ 3 ∧ (x.byte (16 * p + 1)).toNat ≤ 32 ∧ x.half (16 * p + 2) ≤ x.half (16 * p + 4) ∧
    x.half (16 * p + 4) ≤ 1000 ∧ (1 ≤ x.half (16 * p + 6) ∧ x.half (16 * p + 6) ≤ 1000) ∧
    (1 ≤ x.half (16 * p + 8) ∧ x.half (16 * p + 8) ≤ 1000) ∧
    (1 ≤ x.half (16 * p + 10) ∧ x.half (16 * p + 10) ≤ 1000) ∧ x.half (16 * p + 12) ≤ 8000 := by
  simp only [pumpConsistent, lawfulRate, Bool.and_eq_true, decide_eq_true_eq, and_assoc]
  rfl

theorem LimitTable.windConsistent_iff (x : LimitTable) : x.windConsistent = true ↔
    (1 ≤ (x.byte 1280).toNat ∧ (x.byte 1280).toNat ≤ 10) ∧ x.half 1282 < x.half 1284 ∧ x.half 1284 < x.half 1286 ∧
    x.half 1288 < x.half 1282 ∧ x.half 1290 < x.half 1284 ∧ x.half 1292 < x.half 1286 ∧
    ∀ c < 4, ∀ b < 4, x.half (1296 + 8 * c + 2 * b) ≤ 1000 := by
  simp only [windConsistent, Bool.and_eq_true, decide_eq_true_eq, and_assoc, List.all_eq_true, List.mem_range]
  rfl

/-- The specs of an entry stand two in a byte, the even input's in its low half. -/
theorem LimitTable.specs_iff (x : LimitTable) (e : Nat) : (∀ i < 16, x.spec e i ≤ 5) ↔
    ∀ k < 8, (x.byte (1344 + 16 * e + k)).toNat % 16 ≤ 5 ∧ (x.byte (1344 + 16 * e + k)).toNat / 16 ≤ 5 := by
  have low : ∀ k, x.spec e (2 * k) = (x.byte (1344 + 16 * e + k)).toNat % 16 := fun k => by
    simp [spec]
  have high : ∀ k, x.spec e (2 * k + 1) = (x.byte (1344 + 16 * e + k)).toNat / 16 := fun k => by
    have index : (2 * k + 1) / 2 = k := by omega
    simp [spec, index, Nat.add_mod]
  constructor
  · intro specs k lt
    rw [← low, ← high]
    exact ⟨specs _ (by omega), specs _ (by omega)⟩
  · intro bytes i lt
    obtain ⟨even, odd⟩ := bytes (i / 2) (by omega)
    rcases Nat.mod_two_eq_zero_or_one i with parity | parity
    · rw [show i = 2 * (i / 2) by omega, low]; exact even
    · rw [show i = 2 * (i / 2) + 1 by omega, high]; exact odd

theorem LimitTable.entryConsistent_iff (x : LimitTable) (e : Nat) : x.entryConsistent e = true ↔
    (∀ k < 8, (x.byte (1344 + 16 * e + k)).toNat % 16 ≤ 5 ∧ (x.byte (1344 + 16 * e + k)).toNat / 16 ≤ 5) ∧
    (x.byte (1344 + 16 * e + 8)).toNat ≤ 1 ∧ (x.byte (1344 + 16 * e + 9)).toNat ≤ 3 ∧
    x.half (1344 + 16 * e + 10) ≤ 1000 := by
  rw [← specs_iff]
  simp only [entryConsistent, Bool.and_eq_true, decide_eq_true_eq, and_assoc, List.all_eq_true, List.mem_range]
  rfl

theorem LimitTable.consistent_iff (x : LimitTable) : x.consistent = true ↔
    (∀ p < 16, x.pumpConsistent p = true) ∧ (∀ v < 192, x.half (640 + 2 * v) ≤ 8000) ∧
    (∀ g < 64, x.half (1024 + 4 * g) ≤ 4000) ∧ (1 ≤ (x.byte 1280).toNat ∧ (x.byte 1280).toNat ≤ 10) ∧
    x.half 1282 < x.half 1284 ∧ x.half 1284 < x.half 1286 ∧
    x.half 1288 < x.half 1282 ∧ x.half 1290 < x.half 1284 ∧ x.half 1292 < x.half 1286 ∧
    (∀ c < 4, ∀ b < 4, x.half (1296 + 8 * c + 2 * b) ≤ 1000) ∧ (∀ e < 8, x.entryConsistent e = true) ∧
    (100 ≤ x.half 1472 ∧ x.half 1472 ≤ 10000) ∧ 1 ≤ (x.byte 1474).toNat ∧ x.half 1480 ≤ 1023 := by
  simp only [consistent, windConsistent_iff, Bool.and_eq_true, decide_eq_true_eq, and_assoc, List.all_eq_true,
    List.mem_range]
  rfl

/-- The table state is BLANK, or follows from the check and the rules of R154. -/
theorem LimitTable.state_iff (x : LimitTable) :
    (x.state = .blank ↔ x.isErased = true) ∧
    (x.state = .valid ↔ ¬x.isErased = true ∧ x.checkHolds = true ∧ x.consistent = true) ∧
    (x.state = .invalid ↔ ¬x.isErased = true ∧ ¬(x.checkHolds = true ∧ x.consistent = true)) := by
  unfold state
  by_cases erased : x.isErased = true
  · simp [erased]
  · rw [if_neg erased]
    by_cases sound : (x.consistent && x.checkHolds) = true
    · rw [if_pos sound]
      rw [Bool.and_eq_true] at sound
      simp [erased, sound.1, sound.2]
    · rw [if_neg sound]
      rw [Bool.and_eq_true, and_comm] at sound
      simp [erased, sound]

/-! ## Bytes after a completion (R161) -/

theorem LimitTable.byte_setRow (x : LimitTable) (r : Fin 32) (row : Row) {n : Nat} (h : n < 2048) :
    (x.setRow r row).byte n = if n / 64 = r.val then row[n % 64]'(Nat.mod_lt n (by decide)) else x.byte n := by
  simp only [byte, dif_pos h, setRow, Vector.getElem_set, eq_comm (a := r.val)]
  split <;> rfl

theorem LimitTable.byte_erased {n : Nat} (h : n < 2048) : LimitTable.erased.byte n = 0xFF := by
  simp [byte, h, erased]

theorem LimitTable.state_erased : LimitTable.erased.state = .blank :=
  LimitTable.erased.state_iff.1.mpr <| LimitTable.erased.isErased_iff.mpr fun n lt => by rw [byte_erased lt]; rfl

/-- A byte of the row a PROGRAM_ROW leaves. -/
theorem getElem_rowLeft (words : Vector Word 16) (arrayHolds : Bool) {j : Nat} (h : j < 64) :
    (rowLeft words arrayHolds)[j] =
      if arrayHolds then (words[j / 4]?.getD 0).extractLsb' (8 * (j % 4)) 8 else 0xFF := by
  cases arrayHolds with
  | false => simp [rowLeft, Row.erased]
  | true =>
    have word : words[j / 4]? = some (words[j / 4]'(by omega)) := Vector.getElem?_eq_getElem _
    simp only [rowLeft, Row.ofWords, if_true, getElem_tabulate, word, Option.getD_some, wordByte]

end Sys2Proof.Machine
end

section
/-! Proofs: the levels evaluation that follows a completion, and the completions. -/

namespace Sys2Proof.Machine

/-! ## What an evaluation raises (R126, R182) -/

/-- An evaluation raises nothing, INTERLOCK, or INTERLOCK and FAULT. -/
theorem takeSets_ru (matched latched moved : Byte) (s : State) :
    let t := takeSets matched latched moved s
    t.ru = s.ru ∨ t.ru = s.ru.raised .interlock ∨ t.ru = (s.ru.raised .interlock).raised .fault := by
  have handed : ∀ {any x}, Handed any x s (takeSets matched latched moved s) →
      (takeSets matched latched moved s).ru = s.ru ∨ (takeSets matched latched moved s).ru = s.ru.raised .interlock :=
    fun {any _} h => by
      rw [h.ru]; cases any
      · exact .inl rfl
      · exact .inr rfl
  by_cases faulted : s.sq.faulted
  · exact (handed (takeSets_counted faulted)).imp_right .inl
  · by_cases trips : ∃ e, actsBy moved s.ls.table 3 e = true
    · obtain ⟨e, trip, first⟩ := exists_lowest trips
      obtain ⟨p, h⟩ := takeSets_trip (matched := matched) (latched := latched) trip first faulted
      exact .inr (.inr h.ru)
    · have untripped : ∀ e, actsBy moved s.ls.table 3 e = false := fun e => Bool.eq_false_iff.mpr fun k => trips ⟨e, k⟩
      exact (handed (takeSets_untripped untripped)).imp_right .inl

/-- A cause raised leaves the enable set and every pending cause. -/
theorem ReportUnit.raised_keeps (c : Cause) (x : ReportUnit) : (x.raised c).enable = x.enable ∧
    ∀ k, x.pending.getLsbD k = true → (x.raised c).pending.getLsbD k = true :=
  ⟨rfl, fun k pending => by rw [raised, getLsbD_bitInsert, pending, Bool.true_or]⟩

/-! ## The levels evaluation (R22, R124) -/

/-- What the levels evaluation of a state leaves of it. -/
structure LevelsEvaluated (u t : State) : Prop where
  gu : t.gu = { u.gu with matched := holdingSet u none, latched := holdingSet u none &&& latchingSet u }
  enable : t.ru.enable = u.ru.enable
  pending : ∀ k, u.ru.pending.getLsbD k = true → t.ru.pending.getLsbD k = true
  interlock : ∀ e : Fin 8, (holdingSet u none).getLsbD e = true → t.ru.pending.getLsbD 1 = true
  plant : u.sq.state.resting = true → t.wu = u.wu ∧ t.lu = u.lu
  untripped : u.sq.state.resting = true → tripCount (holdingSet u none) u.ls.table = 0 → t.sq = u.sq
  trips : ∀ e, u.sq.state = .idle → actsBy (holdingSet u none) u.ls.table 3 e = true →
    (∀ d < e, actsBy (holdingSet u none) u.ls.table 3 d = false) →
    t.sq = { u.sq with
      state := .tripped, faultRecord := tripRecord u.sq e (tripCount (holdingSet u none) u.ls.table - 1) } ∧
    t.ru.pending.getLsbD 0 = true
  counts : u.sq.state = .tripped → t.sq = u.sq.countFaults (tripCount (holdingSet u none) u.ls.table)

theorem evaluateLevels_counted {u : State} (tripped : u.sq.state = .tripped) :
    Handed ((List.finRange 8).any fun e => (holdingSet u none).getLsbD e)
      (u.sq.countFaults (tripCount (holdingSet u none) u.ls.table)) u (evaluateLevels u) :=
  takeSets_counted (.inl tripped)

/-- A show in IDLE is left there when no TRIP entry is matched. -/
theorem evaluateLevels_untripped {u : State} (idle : u.sq.state = .idle)
    (untripped : ∀ e, actsBy (holdingSet u none) u.ls.table 3 e = false) :
    Handed ((List.finRange 8).any fun e => (holdingSet u none).getLsbD e) u.sq u (evaluateLevels u) := by
  have handed : Handed _ _ u (evaluateLevels u) := takeSets_untripped untripped
  rw [Sequencer.heldByEntry_dead (by rw [idle]; rfl), ite_self, Sequencer.afterHolds_other (by rw [idle]; decide)] at handed
  exact handed

theorem evaluateLevels_trips {u : State} {e : Fin 8} (idle : u.sq.state = .idle)
    (trip : actsBy (holdingSet u none) u.ls.table 3 e = true)
    (first : ∀ d < e, actsBy (holdingSet u none) u.ls.table 3 d = false) :
    ∃ p, TripHanded e (tripCount (holdingSet u none) u.ls.table - 1) u p (evaluateLevels u) :=
  takeSets_trip trip first (by simp [Sequencer.faulted, idle])

theorem ShowState.resting_iff (x : ShowState) : x.resting = true ↔ x = .idle ∨ x = .tripped := by
  cases x <;> simp [resting]

theorem levelsEvaluated (u : State) : LevelsEvaluated u (evaluateLevels u) := by
  have causes : (evaluateLevels u).ru.enable = u.ru.enable ∧
      ∀ k, u.ru.pending.getLsbD k = true → (evaluateLevels u).ru.pending.getLsbD k = true := by
    have interlock := u.ru.raised_keeps .interlock
    have fault := (u.ru.raised .interlock).raised_keeps .fault
    rcases takeSets_ru (holdingSet u none) (holdingSet u none &&& latchingSet u) (holdingSet u none) u with ru | ru | ru
    all_goals rw [evaluateLevels, ru]
    · exact ⟨rfl, fun _ => id⟩
    · exact interlock
    · exact ⟨rfl, fun k pending => fault.2 k (interlock.2 k pending)⟩
  refine ⟨takeSets_gu _ _ _ u, causes.1, causes.2, fun e => takeSets_raises, fun resting => ?_, fun resting zero => ?_,
    fun e idle trip first => ?_, fun tripped => (evaluateLevels_counted tripped).sq⟩
  · rcases u.sq.state.resting_iff.mp resting with idle | tripped
    · by_cases trips : ∃ e, actsBy (holdingSet u none) u.ls.table 3 e = true
      · obtain ⟨e, trip, first⟩ := exists_lowest trips
        obtain ⟨p, h⟩ := evaluateLevels_trips idle trip first
        exact (h.idle (tripCount_later _ _) idle).2
      · have h := evaluateLevels_untripped idle fun e => Bool.eq_false_iff.mpr fun k => trips ⟨e, k⟩
        exact ⟨h.wu, h.lu⟩
    · have h := evaluateLevels_counted tripped
      exact ⟨h.wu, h.lu⟩
  · rcases u.sq.state.resting_iff.mp resting with idle | tripped
    · exact (evaluateLevels_untripped idle (actsBy_of_tripCount zero)).sq
    · have counted := (evaluateLevels_counted tripped).sq
      rw [zero, Sequencer.countFaults_zero] at counted
      exact counted
  · obtain ⟨p, h⟩ := evaluateLevels_trips idle trip first
    refine ⟨(h.idle (tripCount_later _ _) idle).1, ?_⟩
    rw [h.raised, getLsbD_bitInsert]
    simp

/-! ## Completions (R161, R162) -/

/-- The limit store after what every completion does (R162). -/
def LimitStore.finished (x : LimitStore) (name : OpName) (result : CompletionResult) : LimitStore :=
  { x with
    operation := none, lastCompletion := some { result := result, name := name }, tableState := x.table.state }

/-- What the completion of an operation leaves, with the limit store `y`. -/
structure OperationDone (y : LimitStore) (s t : State) : Prop where
  ls : t.ls = y
  au : t.au = s.au
  ground : GroundKept s t
  fetch : FetchKept s t
  path : PathKept s t
  levels : LevelsEvaluated (raise .limit (s.setLs y)) t

/-- The end of the event follows the evaluation. -/
theorem LevelsEvaluated.settled {u v : State} (h : LevelsEvaluated u v) : LevelsEvaluated u (settle v) :=
  ⟨h.gu, h.enable, h.pending, h.interlock, h.plant, h.untripped, h.trips, h.counts⟩

theorem finishOperation_eq (name : OpName) (result : CompletionResult) (x : LimitStore) (s : State) :
    finishOperation name result (s.setLs x) = evaluateLevels (raise .limit (s.setLs (x.finished name result))) := rfl

/-- An operation completes out of reset with its own steps on the limit store and what every completion does. -/
theorem completes_operation {c : Instr} {f : State → State} {name : OpName} {result : CompletionResult} {x : LimitStore}
    {s : State} {P : State → Prop} (row : exec c s = answer (outOfReset f s)) (out : s.inReset = false)
    (act : f s = finishOperation name result (s.setLs x)) (h : ∀ t, OperationDone (x.finished name result) s t → P t) :
    Completes c s P := by
  refine completes_event row out (h _ ?_)
  rw [act, finishOperation_eq]
  have only := evaluateLevels_showOnly (raise .limit (s.setLs (x.finished name result)))
  have done := eventEnd (evaluateLevels (raise .limit (s.setLs (x.finished name result))))
  exact {
    ls := done.ls.trans only.ls
    au := done.au.trans only.au
    ground := done.ground.of_eq only.inReset only.mem
    fetch := done.fetch.of_eq only.fu
    path := done.path.of_eq only.pu
    levels := (levelsEvaluated _).settled }

theorem completeProgramRow_eq {o : Operation} {r : Fin 32} {s : State} (busy : s.ls.operation = some o)
    (name : o.name = .programRow r) (arrayHolds : Bool) :
    completeProgramRow arrayHolds s = finishOperation o.name (rowResult arrayHolds)
      (s.setLs { s.ls with table := s.ls.table.setRow r (rowLeft o.words arrayHolds), marks := 0 }) := by
  unfold completeProgramRow
  rw [busy]
  dsimp only
  rw [name]

theorem LimitStore.operationName_eq {x : LimitStore} {o : Operation} {name : OpName} (busy : x.operation = some o)
    (named : o.name = name) : x.operationName = some name := by
  rw [operationName, busy, ← named]; rfl

theorem completeSetLock_eq {o : Operation} {s : State} (busy : s.ls.operation = some o) (name : o.name = .setLock) :
    completeSetLock s = finishOperation o.name .done (s.setLs { s.ls with locked := true }) := by
  rw [completeSetLock, if_pos (LimitStore.operationName_eq busy name), name]

theorem completeEraseAll_eq {o : Operation} {s : State} (busy : s.ls.operation = some o) (name : o.name = .eraseAll) :
    completeEraseAll s =
      finishOperation o.name .done (s.setLs { s.ls with table := LimitTable.erased, locked := false }) := by
  rw [completeEraseAll, if_pos (LimitStore.operationName_eq busy name), name]

/-- The entries evaluated are those whose pattern holds under the table of the completion (R118, R124). -/
theorem OperationDone.holding {y : LimitStore} {s t : State} (h : OperationDone y s t) (e : Fin 8) :
    (holdingSet (raise .limit (s.setLs y)) none).getLsbD e =
      (decide (t.ls.tableState = .valid) && t.ls.table.patternHolds e s.gu.debounced none) := by
  rw [getLsbD_holdingSet, h.ls]; rfl

/-- The table, the lock cell and the marks are those of the operation's own steps. -/
theorem OperationDone.limits {x : LimitStore} {name : OpName} {result : CompletionResult} {s t : State}
    (h : OperationDone (x.finished name result) s t) :
    t.ls.table = x.table ∧ t.ls.locked = x.locked ∧ t.ls.marks = x.marks ∧ t.ls.tableState = x.table.state := by
  rw [h.ls]; exact ⟨rfl, rfl, rfl, rfl⟩

end Sys2Proof.Machine

open Sys2Proof Sys2Proof.Machine

/-- Settles O35: the completions by their operations, each with the levels evaluation that follows it, and the table state by
the table's bytes. -/
theorem completionsChangeTable : Obligations.CompletionsChangeTable := by
  unfold Obligations.CompletionsChangeTable
  refine ⟨fun s o out busy => ?_, fun x => ?_⟩
  · intro evaluated completed
    have follows : ∀ {y t}, OperationDone y s t → evaluated t := fun {y t} done => by
      unfold evaluated
      intro holds trip trips
      have levels := done.levels
      have table : (raise .limit (s.setLs y)).ls.table = t.ls.table := congrArg LimitStore.table done.ls.symm
      have holding : ∀ e : Fin 8, (holdingSet (raise .limit (s.setLs y)) none).getLsbD e = holds e := done.holding
      have acts : ∀ e : Fin 8,
          actsBy (holdingSet (raise .limit (s.setLs y)) none) (raise .limit (s.setLs y)).ls.table 3 e = trip e := fun e => by
        rw [actsBy, holding, table]
      have count : tripCount (holdingSet (raise .limit (s.setLs y)) none) (raise .limit (s.setLs y)).ls.table = trips := by
        rw [table]; exact (countP_trips holding).symm
      refine ⟨fun e => ?_, ?_, fun e matched => levels.interlock e ((holding e).trans matched), fun resting zero => ?_,
        fun e idle tripped first => ?_, fun tripped => ?_⟩
      · rw [levels.gu, ← holding, ← table, ← getLsbD_latchingSet]
        exact ⟨rfl, BitVec.getLsbD_and⟩
      · rw [levels.gu]; rfl
      · exact levels.untripped resting (count.trans zero)
      · rw [← count]
        exact levels.trips e idle ((acts e).trans tripped) fun d lt => (acts d).trans (first d lt)
      · have counts := levels.counts tripped
        rw [count] at counts
        rw [counts]
        exact ⟨rfl, Sequencer.toNat_countFaults trips s.sq⟩
    have whole : ∀ {x : LimitStore} {result t}, OperationDone (x.finished o.name result) s t → x.staging = s.ls.staging →
        x.outcome = s.ls.outcome → x.lastCommand = s.ls.lastCommand → completed result t :=
      fun done staging outcome command => by
        have limit : (s.ru.raised .limit).pending.getLsbD 8 = true := by
          rw [ReportUnit.raised, getLsbD_bitInsert]; simp [Cause.bit]
        have after := follows done
        refine ⟨?_, ?_, ?_, ?_, ?_, ?_, done.levels.pending 8 limit, done.levels.enable, done.au, done.levels.plant,
          done.ground, done.fetch, done.path, after⟩
        all_goals rw [done.ls]
        · rfl
        · rfl
        · rfl
        · exact staging
        · exact outcome
        · exact command
    refine ⟨fun r holds name => ?_, fun name => ?_, fun name => ?_⟩
    · refine completes_operation rfl out (completeProgramRow_eq busy name holds) fun t done => ?_
      obtain ⟨table, locked, marks, -⟩ := done.limits
      refine ⟨whole done rfl rfl rfl, marks, locked, fun n lt => ?_⟩
      have column : n % 64 % 4 = n % 4 := Nat.mod_mod_of_dvd n (by decide)
      rw [table, ← column, ← getElem_rowLeft o.words holds (Nat.mod_lt n (by decide))]
      exact s.ls.table.byte_setRow r _ lt
    · refine completes_operation rfl out (completeSetLock_eq busy name) fun t done => ?_
      obtain ⟨table, locked, marks, -⟩ := done.limits
      exact ⟨whole done rfl rfl rfl, locked, marks, table⟩
    · refine completes_operation rfl out (completeEraseAll_eq busy name) fun t done => ?_
      obtain ⟨table, locked, marks, state⟩ := done.limits
      refine ⟨whole done rfl rfl rfl, locked, marks, state.trans LimitTable.state_erased, fun n lt => ?_⟩
      rw [table]
      exact LimitTable.byte_erased lt
  · intro byte half between blank check lawful
    have erased : x.isErased = true ↔ blank := x.isErased_iff
    have checked : x.checkHolds = true ↔ check := x.checkHolds_iff
    have consistent : x.consistent = true ↔ lawful := by
      rw [x.consistent_iff]
      simp only [x.pumpConsistent_iff, x.entryConsistent_iff]
      rfl
    rw [← erased, ← checked, ← consistent]
    exact x.state_iff

end

section
/-! Proofs: rows that are writes on the bus, and words that are forwarded or refused. -/

namespace Sys2Proof.Machine

/-! ## Regions (R169) -/

/-- No slot lies below the rings. -/
theorem protectedOffset_low (x : FetchUnit) {offset : Nat} (low : offset < 0x10000) : protectedOffset x offset = false := by
  have audio : ¬Config.audioRingBase ≤ offset := by simp only [Config.audioRingBase]; omega
  have cue : ¬Config.cueRingBase ≤ offset := by simp only [Config.cueRingBase]; omega
  rw [protectedOffset, if_neg audio, if_neg cue]

/-- The words that are refused: those of the status page, the limit view and the published slots (R169, R172). -/
theorem refusesWord_iff (s : State) (a : WordAddr) : refusesWord s a = true ↔ inWindow s.pu.base a = true ∧
    (0x01000 ≤ windowOffset a ∧ windowOffset a < 0x04000 ∨ protectedOffset s.fu (windowOffset a) = true) := by
  unfold refusesWord regionOf
  by_cases base : inWindow s.pu.base a = true
  · rw [if_pos base, base]
    generalize windowOffset a = offset
    have low := protectedOffset_low s.fu (offset := offset)
    unfold regionOfOffset
    simp only [Config.statusBase, Config.limitViewBase, Config.stagingBase, Config.ordinaryBase, Config.cueRingBase,
      Config.audioRingBase, true_and]
    split_ifs
    · rw [low (by omega)]; simp; omega
    · simp; omega
    · simp; omega
    · rw [low (by omega)]; simp; omega
    · rw [low (by omega)]; simp; omega
    · simp; omega
    · simp; omega
  · rw [if_neg base]; simp [base]

theorem refusesWord_false {s : State} {a : WordAddr} (h : inWindow s.pu.base a = true →
    (windowOffset a < 0x01000 ∨ 0x04000 ≤ windowOffset a) ∧ protectedOffset s.fu (windowOffset a) = false) :
    refusesWord s a = false := by
  rw [Bool.eq_false_iff, Ne, refusesWord_iff]
  rintro ⟨base, answered | slot⟩
  · obtain ⟨other, -⟩ := h base; omega
  · obtain ⟨-, free⟩ := h base; simp [free] at slot

/-! ## Rows that are writes (R171, R187) -/

/-- A row that captures a full write to a defined word does what the bus decode makes of that write. -/
theorem captured_eq_decideWord {offset : Nat} {value : Word} {burst progEn : Bool} {capture : State → State} {s : State}
    (word : offset % 4 = 0) (defined : offset < 0x01000 ∨ 0x04000 ≤ offset ∧ offset < 0x04040)
    (full : captureFull offset value progEn s = capture s) :
    captured offset value burst capture s = decideWord (fullWrite s.pu.base offset value burst) progEn s := by
  have place : windowOffset (windowWord s.pu.base offset) = offset := windowOffset_windowWord _ word (by omega)
  have admits : refusesWord s (windowWord s.pu.base offset) = false := refusesWord_false fun _ => by
    rw [place]; exact ⟨by omega, protectedOffset_low _ (by omega)⟩
  have capture_eq : captureWord (fullWrite s.pu.base offset value burst) progEn s = capture s := by
    have base := inWindow_windowWord s.pu.base offset
    refine (if_pos base).trans ((if_pos rfl).trans ?_)
    exact (congrArg (captureFull · value progEn s) place).trans full
  unfold captured decideWord
  rw [capture_eq]
  by_cases passes : transparent burst s = true
  · simp [passes, fullWrite]
  · simp [passes, fullWrite, admits]

theorem captureFull_arg (i : Fin 3) (value : Word) (progEn : Bool) (s : State) :
    captureFull (Config.showArg + 4 * i.val) value progEn s = takeArg i value s := by
  match i with
  | 0 => rfl
  | 1 => rfl
  | 2 => rfl

/-- The offsets of the defined words of the command page (R171). -/
abbrev pageWords : List Nat := [0x000, 0x004, 0x008, 0x00C, 0x040, 0x044, 0x080, 0x0C0, 0x0C4]

/-- Beside the defined words of the command page only staging words are captured (R171). -/
theorem captureFull_other {offset : Nat} (other : offset ∉ pageWords) (value : Word) (progEn : Bool) (s : State) :
    captureFull offset value progEn s =
      if 0x04000 ≤ offset ∧ offset < 0x04040 then captureStaging (Fin.ofNat 16 ((offset - 0x04000) / 4)) value s else s := by
  simp only [pageWords, List.mem_cons, List.not_mem_nil, or_false, not_or] at other
  obtain ⟨cmd, arg0, arg1, arg2, cue, audio, limit, enable, clear⟩ := other
  rw [captureFull, if_neg cmd, if_neg arg0, if_neg arg1, if_neg arg2, if_neg cue, if_neg audio, if_neg limit,
    if_neg enable, if_neg clear]

theorem not_mem_pageWords {offset : Nat} (above : 0x01000 ≤ offset) : offset ∉ pageWords := by simp; omega

theorem captureFull_staging (i : Fin 16) (value : Word) (progEn : Bool) (s : State) :
    captureFull (Config.stagingBase + 4 * i.val) value progEn s = captureStaging i value s := by
  have index : Fin.ofNat 16 ((0x04000 + 4 * i.val - 0x04000) / 4) = i := by ext; simp
  have within : 0x04000 ≤ 0x04000 + 4 * i.val ∧ 0x04000 + 4 * i.val < 0x04040 := by omega
  rw [Config.stagingBase, captureFull_other (not_mem_pageWords (by omega)), if_pos within, index]

/-- A row that captures a full write to a defined word is the bus write of that word. -/
theorem exec_captured_eq {c : Instr} {offset : Nat} {value : Word} {burst p progEn : Bool} {capture : State → State}
    {s : State} {w : BusWrite} (word : offset % 4 = 0) (defined : offset < 0x01000 ∨ 0x04000 ≤ offset ∧ offset < 0x04040)
    (full : captureFull offset value p s = capture s)
    (write : some (fullWrite s.pu.base offset value burst, p) = some (w, progEn))
    (row : exec c s = answer (captured offset value burst capture s)) :
    exec c s = exec (.processorWrite w progEn) s := by
  cases write
  rw [row, captured_eq_decideWord word defined full]; rfl

/-! ## Words pushed (R168) -/

/-- The word that goes on its way for a written word, its enables deasserted if it is refused (R172). -/
def decidedWord (w : BusWrite) (refused : Bool) : BusWord :=
  { address := w.address, data := w.data, enables := if refused then 0 else w.enables, refused := refused }

/-- A word pushed changes nothing of the path unit but the words on their way. -/
theorem pushWord_kept (w : BusWrite) (refused : Bool) (s : State) : (pushWord w refused s).pu = { s.pu with
    waiting := (pushWord w refused s).pu.waiting
    assembling := (pushWord w refused s).pu.assembling
    carried := (pushWord w refused s).pu.carried } := by
  unfold pushWord; dsimp only; split <;> rfl

/-- Only a burst presented before the release of RESET_N is carried, and only its last word ends that (R175). -/
theorem pushWord_carried {w : BusWrite} (refused : Bool) {s : State} (h : w.burst = true → s.pu.carried = false) :
    (pushWord w refused s).pu.carried = s.pu.carried := by
  unfold pushWord
  dsimp only
  split
  · by_cases burst : w.burst = true
    · simp [burst, h burst]
    · simp [burst]
  · rfl

/-- A single word waits for the port, unless it is refused. -/
theorem pushWord_single {w : BusWrite} (single : w.burst = false) (refused : Bool) (s : State) :
    (pushWord w refused s).pu = { s.pu with
      waiting := if refused then s.pu.waiting else s.pu.waiting ++ [.write [decidedWord w refused]] } := by
  cases refused <;> simp [pushWord, endsTransaction, single, decidedWord]

/-- A word of a burst before its last waits with the words before it. -/
theorem pushWord_assembles {w : BusWrite} (burst : w.burst = true) (more : w.address.extractLsb' 0 2 ≠ 3) (refused : Bool)
    (s : State) : (pushWord w refused s).pu = { s.pu with assembling := s.pu.assembling ++ [decidedWord w refused] } := by
  have goesOn : endsTransaction w = false := by rw [endsTransaction, burst, decide_eq_false more]; rfl
  simp [pushWord, goesOn, burst, decidedWord]

/-- With its last word a burst waits for the port, unless every word of it was refused. -/
theorem pushWord_ends {w : BusWrite} (burst : w.burst = true) (last : w.address.extractLsb' 0 2 = 3) (refused : Bool)
    (s : State) : (pushWord w refused s).pu = { s.pu with
      assembling := []
      carried := false
      waiting := if (s.pu.assembling ++ [decidedWord w refused]).all (fun x => x.refused) then s.pu.waiting
        else s.pu.waiting ++ [.write (s.pu.assembling ++ [decidedWord w refused])] } := by
  have ends : endsTransaction w = true := by rw [endsTransaction, decide_eq_true last, Bool.or_true]
  simp [pushWord, ends, burst, decidedWord]

/-! ## Forwarded words (R168, R169, R171, R175) -/

/-- A word without a capture: above the staging words, and in the command page at a word that is not defined. -/
theorem captureWord_undefined {w : BusWrite} (progEn : Bool) {s : State}
    (undefined : 0x04040 ≤ windowOffset w.address ∨
      windowOffset w.address < 0x01000 ∧ windowOffset w.address ∉ pageWords) : captureWord w progEn s = s := by
  have other : windowOffset w.address ∉ pageWords := by
    rcases undefined with high | ⟨-, other⟩
    · exact not_mem_pageWords (by omega)
    · exact other
  have unstaged : ¬(0x04000 ≤ windowOffset w.address ∧ windowOffset w.address < 0x04040) := by omega
  have cmd : windowOffset w.address ≠ Config.showCmd := fun cmd => other (by rw [cmd]; decide)
  rw [captureWord, captureFull_other other, if_neg unstaged, if_neg cmd, ite_self, ite_self]

/-- A word decided without a refusal or a capture is pushed as it stands. -/
theorem decideWord_forwards {w : BusWrite} {progEn : Bool} {s : State}
    (h : s.inReset = true ∨ (w.burst = true ∧ s.pu.carried = true) ∨ w.enables = 0 ∨ inWindow s.pu.base w.address = false ∨
      (0x04040 ≤ windowOffset w.address ∧ protectedOffset s.fu (windowOffset w.address) = false) ∨
      (windowOffset w.address < 0x01000 ∧ windowOffset w.address ∉ pageWords)) :
    decideWord w progEn s = pushWord w false s := by
  have decided : refusesWord s w.address = false → captureWord w progEn s = s → decideWord w progEn s = pushWord w false s :=
    fun admits capture => by
      rw [decideWord, admits, capture]; simp
  rcases h with asserted | ⟨burst, carried⟩ | masked | outside | ⟨high, free⟩ | ⟨page, undefined⟩
  · simp [decideWord, transparent, asserted]
  · simp [decideWord, transparent, burst, carried]
  · simp [decideWord, masked]
  · exact decided (refusesWord_false fun base => by simp [outside] at base) (by simp [captureWord, outside])
  · exact decided (refusesWord_false fun _ => ⟨.inr (by omega), free⟩) (captureWord_undefined progEn (.inl high))
  · exact decided (refusesWord_false fun _ => ⟨.inl page, protectedOffset_low _ (by omega)⟩)
      (captureWord_undefined progEn (.inr ⟨page, undefined⟩))

/-! ## Refused words (R172) -/

/-- The path unit with one more word refused. -/
def PathUnit.countRefused (x : PathUnit) (w : BusWrite) : PathUnit :=
  { x with refusedCount := saturate16 x.refusedCount 1, lastRefused := w.address.toAddr }

/-- A refusal is counted and recorded before the word goes on. -/
theorem refuseWord_pu (w : BusWrite) (s : State) :
    (refuseWord w s).pu = (pushWord w true (s.setPu (s.pu.countRefused w))).pu := pushWord_pu_congr w true rfl

theorem decideWord_refuses {w : BusWrite} {progEn : Bool} {s : State} (path : PathDecides w.burst s) (enabled : w.enables ≠ 0)
    (refused : refusesWord s w.address = true) : decideWord w progEn s = refuseWord w s := by
  rw [decideWord, transparent_decides path, refused, decide_eq_false enabled]; rfl

/-- A refused word completes counted and recorded, REFUSED raised, and nothing else changed beside the path unit. -/
theorem completes_refusedWord {w : BusWrite} {progEn : Bool} {s : State} {P : State → Prop}
    (decided : decideWord w progEn s = refuseWord w s)
    (h : ∀ t, ShowKept s t ∧ PlantKept s t ∧ GroundKept s t ∧ FetchKept s t ∧ ReportRaised .refused s t →
      t.pu = { (pushWord w true (s.setPu (s.pu.countRefused w))).pu with
        waitCount := t.pu.waitCount, arbiter := t.pu.arbiter } → P t) : Completes (.processorWrite w progEn) s P := by
  have row : exec (.processorWrite w progEn) s = answer (refuseWord w s) := by rw [← decided]; rfl
  have pu := refuseWord_pu w s
  have beside : (refuseWord w s).sq = s.sq ∧ (refuseWord w s).au = s.au ∧ PlantKept s (refuseWord w s) ∧
      (refuseWord w s).fu = s.fu ∧ (refuseWord w s).ru = (raise .refused s).ru ∧ (refuseWord w s).mem = s.mem ∧
      (refuseWord w s).inReset = s.inReset := by
    rw [refuseWord_frame]; exact ⟨rfl, rfl, ⟨rfl, rfl, rfl, rfl⟩, rfl, rfl, rfl, rfl⟩
  refine ⟨_, row, ?_⟩
  revert pu beside
  generalize refuseWord w s = a
  rintro pu ⟨sq, au, plant, fu, ru, mem, inReset⟩
  exact h (settle a) ⟨⟨sq, au⟩, plant, groundKept_of inReset mem, fetchKept_settle fu, reportRaised_settle ru⟩
    (by rw [settle_pu, pu])

end Sys2Proof.Machine

open Sys2Proof Sys2Proof.Machine

/-- Settles O3: each row's capture is the one the bus decode finds at its offset. -/
theorem rowsAreBusWrites : Obligations.RowsAreBusWrites := by
  unfold Obligations.RowsAreBusWrites
  intro c s w progEn write
  cases c
  case start | stop | hold | step | proceed | ringReset | ambient | cueResync | releaseInterlocks | mute | monitor |
      spaceTriggers | clearCounts | showCmdUnknownCode | cueMarkWrite | audioMarkWrite | attnEnableWrite | attnClearWrite |
      programRow | eraseAll | setLock | clearStaging | limitCmdUnknownCode =>
    exact exec_captured_eq rfl (.inl (by decide)) rfl write rfl
  case showArgWrite i value burst =>
    have word : (0x004 + 4 * i.val) % 4 = 0 := by omega
    exact exec_captured_eq word (.inl (by omega)) (captureFull_arg i value _ s) write rfl
  case stagingWordWrite i value burst =>
    have word : (0x4000 + 4 * i.val) % 4 = 0 := by omega
    exact exec_captured_eq word (.inr (by omega)) (captureFull_staging i value _ s) write rfl
  case showCmdPartialWrite | processorWrite => cases write; rfl
  all_goals cases write

/-- Settles O4: the word is pushed as it stands, by its place in its transaction. -/
theorem forwardedWordIsPosted : Obligations.ForwardedWordIsPosted := by
  unfold Obligations.ForwardedWordIsPosted
  intro s w progEn forwarded
  obtain ⟨t, row, kept, plant, ground, fetch, report, path⟩ :=
    completes_forwarded (progEn := progEn) (decideWord_forwards forwarded)
  refine ⟨t, row, kept, plant, ground, fetch, report, fun single => ?_, fun burst more => ?_, fun burst last => ?_⟩
  · rw [Forwarded, pushWord_single single] at path
    exact path
  · rw [Forwarded, pushWord_assembles burst more] at path
    exact path
  · have unrefused : ¬(s.pu.assembling ++ [decidedWord w false]).all (fun x => x.refused) = true := by
      simp [decidedWord]
    rw [Forwarded, pushWord_ends burst last, if_neg unrefused] at path
    exact path

/-- Settles O5: the refused word goes on without enables, by its place in its transaction. -/
theorem refusedWordIsCounted : Obligations.RefusedWordIsCounted := by
  unfold Obligations.RefusedWordIsCounted
  intro s w progEn path enabled base refused
  have decided : decideWord w progEn s = refuseWord w s :=
    decideWord_refuses path enabled ((refusesWord_iff s w.address).mpr ⟨base, refused⟩)
  refine completes_refusedWord decided fun t ⟨kept, plant, ground, fetch, raised⟩ pu => ?_
  have beside := pu.trans (by rw [pushWord_kept])
  refine ⟨kept, plant, ground, fetch, raised, ?_, ?_, ?_, ?_, ?_, ?_, fun single => ?_, fun burst more => ?_,
    fun burst last => ?_⟩
  · rw [beside]; exact toNat_saturate16 s.pu.refusedCount 1
  · rw [beside]; rfl
  · rw [beside]; rfl
  · rw [beside]; rfl
  · rw [beside]; rfl
  · rw [pu]; exact pushWord_carried true path.2
  · rw [pushWord_single single] at pu
    rw [pu]; exact ⟨rfl, rfl⟩
  · rw [pushWord_assembles burst more] at pu
    rw [pu]; exact ⟨rfl, rfl⟩
  · rw [pushWord_ends burst last] at pu
    rw [pu]
    refine ⟨rfl, fun all => if_pos ?_, fun ⟨x, mem, unrefused⟩ => if_neg ?_⟩
    · rw [List.all_append, Bool.and_eq_true]
      exact ⟨List.all_eq_true.mpr all, rfl⟩
    · simp only [List.all_append, Bool.and_eq_true, List.all_eq_true]
      rintro ⟨all, -⟩
      rw [all x mem] at unrefused
      cases unrefused

end

section
/-! Proofs: what each command does to the words on their way to memory, the marks and the arbiter's finding. -/

namespace Sys2Proof.Machine

/-! ## Operations beside the path -/

/-- The window base, the words on their way, the arbiter's finding and memory are as before. -/
structure WayKept (s t : State) : Prop where
  base : t.pu.base = s.pu.base
  arbiter : t.pu.arbiter = s.pu.arbiter
  waiting : t.pu.waiting = s.pu.waiting
  assembling : t.pu.assembling = s.pu.assembling
  carried : t.pu.carried = s.pu.carried
  mem : t.mem = s.mem

/-- The marks and the fetch indices of both rings are as before. -/
structure MarksKept (x y : FetchUnit) : Prop where
  cueMark : y.cueMark = x.cueMark
  cueFetch : y.cueFetch = x.cueFetch
  audioMark : y.audioMark = x.audioMark
  audioFetch : y.audioFetch = x.audioFetch

/-- An operation beside the path: way and slots are as before. -/
structure PathAside (s t : State) : Prop where
  way : WayKept s t
  marks : MarksKept s.fu t.fu

theorem WayKept.refl (s : State) : WayKept s s := ⟨rfl, rfl, rfl, rfl, rfl, rfl⟩

theorem WayKept.trans {s t u : State} (h : WayKept s t) (k : WayKept t u) : WayKept s u :=
  ⟨k.base.trans h.base, k.arbiter.trans h.arbiter, k.waiting.trans h.waiting, k.assembling.trans h.assembling,
    k.carried.trans h.carried, k.mem.trans h.mem⟩

theorem wayKept_of {s t : State} (pu : t.pu = s.pu) (mem : t.mem = s.mem) : WayKept s t :=
  ⟨by rw [pu], by rw [pu], by rw [pu], by rw [pu], by rw [pu], mem⟩

theorem MarksKept.refl (x : FetchUnit) : MarksKept x x := ⟨rfl, rfl, rfl, rfl⟩

theorem MarksKept.trans {x y z : FetchUnit} (h : MarksKept x y) (k : MarksKept y z) : MarksKept x z :=
  ⟨k.cueMark.trans h.cueMark, k.cueFetch.trans h.cueFetch, k.audioMark.trans h.audioMark,
    k.audioFetch.trans h.audioFetch⟩

theorem marksKept_of {x y : FetchUnit} (h : y = x) : MarksKept x y := h ▸ MarksKept.refl x

theorem PathAside.refl (s : State) : PathAside s s := ⟨WayKept.refl s, MarksKept.refl s.fu⟩

theorem PathAside.trans {s t u : State} (h : PathAside s t) (k : PathAside t u) : PathAside s u :=
  ⟨h.way.trans k.way, h.marks.trans k.marks⟩

/-- An operation beside path unit, fetch unit and memory. -/
theorem aside_of {s t : State} (pu : t.pu = s.pu) (fu : t.fu = s.fu) (mem : t.mem = s.mem) : PathAside s t :=
  ⟨wayKept_of pu mem, marksKept_of fu⟩

theorem ShowOnly.aside {s t : State} (h : ShowOnly s t) : PathAside s t := aside_of h.pu h.fu h.mem

theorem MusicOnly.aside {s t : State} (h : MusicOnly s t) : PathAside s t := aside_of h.pu h.fu h.mem

theorem PeriodOnly.way {s t : State} (h : PeriodOnly s t) : WayKept s t := wayKept_of h.pu h.mem

theorem HeadOnly.way {s t : State} (h : HeadOnly s t) : WayKept s t := wayKept_of h.pu h.mem

theorem setSq_aside (s : State) (x : Sequencer) : PathAside s (s.setSq x) := aside_of rfl rfl rfl
theorem setAu_aside (s : State) (x : AudioUnit) : PathAside s (s.setAu x) := aside_of rfl rfl rfl
theorem setWu_aside (s : State) (x : WaterUnit) : PathAside s (s.setWu x) := aside_of rfl rfl rfl
theorem setLu_aside (s : State) (x : LightUnit) : PathAside s (s.setLu x) := aside_of rfl rfl rfl
theorem setGu_aside (s : State) (x : GuardUnit) : PathAside s (s.setGu x) := aside_of rfl rfl rfl
theorem setLs_aside (s : State) (x : LimitStore) : PathAside s (s.setLs x) := aside_of rfl rfl rfl
theorem setRu_aside (s : State) (x : ReportUnit) : PathAside s (s.setRu x) := aside_of rfl rfl rfl
theorem setFu_way (s : State) (x : FetchUnit) : WayKept s (s.setFu x) := wayKept_of rfl rfl

/-! ## Examination of the head, and the frame period -/

theorem examineRun_marks (rs : List CueRecord) (s : State) : MarksKept s.fu (examineRun rs s).fu := by
  induction rs generalizing s with
  | nil => exact MarksKept.refl s.fu
  | cons r rest ih =>
    have one : MarksKept s.fu (examineRecord r rest s).state.fu := by
      obtain ⟨fu, -⟩ := examineRecord_fu r rest s
      rw [fu]; exact ⟨rfl, rfl, rfl, rfl⟩
    unfold examineRun
    dsimp only
    repeat' split
    · exact one
    · exact one
    · exact one.trans (ih (countMeeting (examineRecord r rest s).state))
    · exact one.trans (ih (examineRecord r rest s).state)

theorem examineHead_aside (s : State) : PathAside s (examineHead s) := by
  refine ⟨(examineHead_headOnly s).way, ?_⟩
  unfold examineHead; split
  · exact examineRun_marks _ s
  · exact MarksKept.refl s.fu

theorem retryHead_aside (s : State) : PathAside s (retryHead s) := by
  unfold retryHead; split
  · exact examineHead_aside s
  · exact PathAside.refl s

theorem resumeRun_aside (s : State) : PathAside s (resumeRun s) := by
  unfold resumeRun; split
  · exact (setSq_aside s _).trans (examineHead_aside _)
  · exact PathAside.refl s

theorem afterReleases_aside (r : Released) : PathAside r.state (afterReleases r) := by
  have examined : PathAside r.state (examineAfter r) := by
    unfold examineAfter
    repeat' split
    · exact resumeRun_aside _
    · exact retryHead_aside _
    · exact PathAside.refl _
  unfold afterReleases
  repeat' split
  · exact PathAside.refl _
  · exact (examined.trans (setSq_aside _ _)).trans (resumeRun_aside _)
  · exact examined

theorem advance_aside (s : State) : PathAside s (advance s) := by
  unfold advance; split
  · exact (takeFault_showOnly _ s).aside
  · exact ((ShowOnly.ofSq s _).trans (releaseDue_showOnly _ _)).aside.trans (afterReleases_aside _)

theorem takeReport_aside (o : PeriodOutcome) (s : State) : PathAside s (takeReport o s) := by
  have resumed : PathAside s (setShow .running s) := (setSq_aside s _)
  unfold takeReport
  split
  · exact advance_aside s
  · exact advance_aside s
  · exact resumed.trans (advance_aside _)
  · exact resumed.trans (advance_aside _)
  · exact ((setSq_aside s _).trans (setAu_aside _ _)).trans (setRu_aside _ _)
  · exact (setSq_aside s _).trans (starveLimitTest_showOnly _).aside
  · exact PathAside.refl s

theorem playPeriod_aside (s : State) : PathAside s (playPeriod s) := by
  have taken : PathAside s (takeFrame s) := by
    unfold takeFrame; split
    · exact setAu_aside s _
    all_goals exact PathAside.refl s
  have shifted : ∀ x t, PathAside t (shiftOut x t) := fun _ t => setAu_aside t _
  unfold playPeriod; split
  · exact ((taken.trans (takeReport_aside _ _)).trans (shifted _ _)).trans (feedMonitors_musicOnly _ _).aside
  · exact PathAside.refl s

theorem resumePeriod_aside (s : State) : PathAside s (resumePeriod s) := by
  unfold resumePeriod; split
  · exact playPeriod_aside s
  · exact PathAside.refl s

/-! ## Show, field and colour periods, sensors and limit operations -/

theorem enterRunning_aside (s : State) : PathAside s (enterRunning s) := by
  rw [enterRunning_frame]; exact (setSq_aside s _)

theorem primingTest_aside (s : State) : PathAside s (primingTest s) := by
  rw [primingTest_frame]; exact (setSq_aside s _)

theorem takeSync_aside (s : State) : PathAside s (takeSync s) := by
  unfold takeSync; split
  · exact enterRunning_aside s
  · exact PathAside.refl s

/-- The completion of a wind-down voids a burst on the port, and leaves the way and the marks (R25, R39). -/
theorem winddownTest_aside (s : State) : PathAside s (winddownTest s) := by
  unfold winddownTest; split
  · exact ⟨⟨rfl, rfl, rfl, rfl, rfl, rfl⟩, ⟨rfl, rfl, rfl, rfl⟩⟩
  · exact PathAside.refl s

theorem takeFieldPeriod_aside (s : State) : PathAside s (takeFieldPeriod s) :=
  (setWu_aside s (waterPeriod s).wu).trans (winddownTest_aside (waterPeriod s))

theorem takeColourPeriod_aside (s : State) : PathAside s (takeColourPeriod s) :=
  ((setLu_aside s (lightPeriod s).lu).trans (setSq_aside _ _)).trans (winddownTest_aside (noteColourPeriod (lightPeriod s)))

theorem deferredClosePeriod_aside (v : Fin 192) (s : State) : PathAside s (deferredClosePeriod v s) := by
  unfold deferredClosePeriod; split
  · exact takeFieldPeriod_aside s
  · exact PathAside.refl s

theorem winddownPeriod_aside (s : State) : PathAside s (winddownPeriod s) := by
  unfold winddownPeriod
  repeat' split
  · exact takeFieldPeriod_aside s
  · exact takeColourPeriod_aside s
  · exact PathAside.refl s

theorem takeSets_aside (matched latched moved : Byte) (s : State) : PathAside s (takeSets matched latched moved s) :=
  (setGu_aside s _).trans (takeSets_showOnly matched latched moved s).aside

theorem changeLevel_aside (input : Fin 16) (high : Bool) (s : State) : PathAside s (changeLevel input high s) := by
  unfold changeLevel; split
  · exact PathAside.refl s
  · exact setGu_aside s _

theorem timerExpires_aside (input : Fin 16) (s : State) : PathAside s (timerExpires input s) := by
  unfold timerExpires expireDebounce
  dsimp only
  repeat' split
  · exact setGu_aside s _
  · exact ((setGu_aside s _).trans (setGu_aside _ _)).trans (takeSets_aside _ _ _ _)
  · exact PathAside.refl s

theorem gateExpires_aside (s : State) : PathAside s (gateExpires s) := by
  unfold gateExpires expireGate
  dsimp only
  repeat' split
  · exact setGu_aside s _
  · exact (setGu_aside s _).trans (setRu_aside _ _)
  · exact PathAside.refl s

theorem finishOperation_aside (name : OpName) (result : CompletionResult) (s : State) :
    PathAside s (finishOperation name result s) := by
  obtain ⟨fu, -, pu, mem, -⟩ := finishOperation_showOnly name result s
  exact aside_of pu fu mem

theorem completeProgramRow_aside (holds : Bool) (s : State) : PathAside s (completeProgramRow holds s) := by
  unfold completeProgramRow
  repeat' split
  · exact (setLs_aside s _).trans (finishOperation_aside _ _ _)
  all_goals exact PathAside.refl s

theorem completeSetLock_aside (s : State) : PathAside s (completeSetLock s) := by
  unfold completeSetLock; split
  · exact (setLs_aside s _).trans (finishOperation_aside _ _ _)
  · exact PathAside.refl s

theorem completeEraseAll_aside (s : State) : PathAside s (completeEraseAll s) := by
  unfold completeEraseAll; split
  · exact (setLs_aside s _).trans (finishOperation_aside _ _ _)
  · exact PathAside.refl s

theorem endTransaction_aside (s : State) : PathAside s (endTransaction s) := by
  unfold endTransaction; split
  · exact ⟨⟨rfl, rfl, rfl, rfl, rfl, rfl⟩, MarksKept.refl s.fu⟩
  all_goals exact PathAside.refl s

/-! ## Captures -/

theorem leaveTripped_aside (s : State) : PathAside s (leaveTripped s) := by
  unfold leaveTripped; split
  · exact setSq_aside s _
  · exact PathAside.refl s

theorem startShow_aside (s : State) : PathAside s (startShow s) := by
  unfold startShow
  exact ((setSq_aside s _).trans (setAu_aside _ _)).trans (primingTest_aside _)

/-- No show command touches the words on their way: RING_RESET at most voids the burst on the port (R39, R46). -/
theorem ShowCommand.act_way (c : ShowCommand) (s : State) : WayKept s (c.act s) := by
  cases c
  case start => exact (startShow_aside s).way
  case stop => exact (windDown_showOnly .normal s).aside.way
  case hold => change WayKept s (takeHold s); unfold takeHold; split <;> exact (setSq_aside s _).way
  case step => exact ((setSq_aside s _).trans (enterRunning_aside _)).way
  case proceed =>
    change WayKept s (takeProceed s); unfold takeProceed; dsimp only; split
    · exact (setSq_aside s _).way
    · exact ((setSq_aside s _).trans (enterRunning_aside _)).way
  case ringReset => exact ⟨rfl, rfl, rfl, rfl, rfl, rfl⟩
  case ambient => exact (setLu_aside s _).way
  case cueResync => exact (takeResync_headOnly s).way
  case releaseInterlocks => exact ((takeSets_aside _ _ _ s).trans (leaveTripped_aside _)).way
  case mute => exact (takeMute_musicOnly _ s).aside.way
  case monitor => exact (setAu_aside s _).way
  case spaceTriggers => exact setFu_way s _
  case clearCounts => exact ⟨rfl, rfl, rfl, rfl, rfl, rfl⟩

theorem takeShowCommand_way (code : Word) (s : State) : WayKept s (takeShowCommand code s) := by
  unfold takeShowCommand takeCommand
  split
  · split
    · exact (ShowCommand.act_way _ s).trans (setRu_aside _ _).way
    · exact (setRu_aside s _).way
  · exact (setRu_aside s _).way

theorem writeCueMark_way (value : Word) (s : State) : WayKept s (writeCueMark value s) := by
  unfold writeCueMark; split
  · exact setFu_way s _
  · exact (setFu_way s _).trans (setRu_aside _ _).way

theorem writeAudioMark_way (value : Word) (s : State) : WayKept s (writeAudioMark value s) := by
  unfold writeAudioMark; split
  · exact (setFu_way s _).trans (primingTest_aside _).way
  · exact (setFu_way s _).trans (setRu_aside _ _).way

theorem captureStaging_aside (i : Fin 16) (value : Word) (s : State) : PathAside s (captureStaging i value s) := by
  unfold captureStaging; split
  · exact PathAside.refl s
  · exact setLs_aside s _

theorem takeArg_aside (i : Fin 3) (value : Word) (s : State) : PathAside s (takeArg i value s) := by
  unfold takeArg; split <;> exact setRu_aside s _

/-- The capture of a word leaves the words on their way. -/
theorem captureFull_way (offset : Nat) (value : Word) (progEn : Bool) (s : State) :
    WayKept s (captureFull offset value progEn s) := by
  unfold captureFull
  repeat' split
  · exact takeShowCommand_way value s
  · exact (takeArg_aside 0 value s).way
  · exact (takeArg_aside 1 value s).way
  · exact (takeArg_aside 2 value s).way
  · exact writeCueMark_way value s
  · exact writeAudioMark_way value s
  · exact (setLs_aside s _).way
  · exact (setRu_aside s _).way
  · exact (setRu_aside s _).way
  · exact (captureStaging_aside _ value s).way
  · exact WayKept.refl s

theorem captureWord_way (w : BusWrite) (progEn : Bool) (s : State) : WayKept s (captureWord w progEn s) := by
  unfold captureWord
  repeat' split
  · exact captureFull_way _ _ _ s
  · exact (setRu_aside s _).way
  · exact WayKept.refl s
  · exact WayKept.refl s

/-- Only a capture in the command page moves a mark (R171). -/
theorem captureWord_above {w : BusWrite} (progEn : Bool) {s : State} (above : inWindow s.pu.base w.address = true →
    0x01000 ≤ windowOffset w.address) : PathAside s (captureWord w progEn s) := by
  unfold captureWord
  repeat' split
  case isTrue.isTrue base _ =>
    rw [captureFull_other (not_mem_pageWords (above base))]
    split
    · exact captureStaging_aside _ w.data s
    · exact PathAside.refl s
  case isTrue.isFalse.isTrue base _ cmd => exact absurd (above base) (by rw [cmd]; decide)
  all_goals exact PathAside.refl s

/-! ## Every command -/

/-- What an operation does to the path: nothing, or one of the events of the memory path and of RESET_N. -/
inductive PathMove (c : Instr) (s : State) : State → Prop where
  | aside {x : State} (h : PathAside s x) : PathMove c s x
  | written {w : BusWrite} {progEn : Bool} (h : busWriteOf s.pu.base c = some (w, progEn)) :
      PathMove c s (decideWord w progEn s)
  | presented (r : BusRead) : PathMove c s (presentRead r s)
  | granted (first : Bool) : PathMove c s (grantPort first s)
  | arrived (r : BusRead) (first : Bool) : PathMove c s (grantPort first (settleArbiter (presentRead r s)))
  | ended (b : Burst) (port : s.pu.port = .fetch b) : PathMove c s (completeBurst b s)
  | asserted : PathMove c s (assertReset s)
  | released (straps : BitVec 6) (senses : Half) (h : s.inReset = true) : PathMove c s (releaseReset straps senses s)

theorem pathMove_outOfReset {c : Instr} {f : State → State} {s : State} (h : PathAside s (f s)) :
    PathMove c s (outOfReset f s) := by
  unfold outOfReset; split
  · exact .aside (PathAside.refl s)
  · exact .aside h

/-- A row that is a write moves the path as the bus decode of that write does. -/
theorem exec_written {c : Instr} {s : State} {w : BusWrite} {progEn : Bool} (h : busWriteOf s.pu.base c = some (w, progEn)) :
    ∃ x, exec c s = answer x ∧ PathMove c s x := by
  have row := rowsAreBusWrites
  unfold Obligations.RowsAreBusWrites at row
  exact ⟨_, row c s w progEn h, .written h⟩

/-- Every command answers what one move of the path leaves. -/
theorem exec_pathMove (c : Instr) (s : State) : ∃ x, exec c s = answer x ∧ PathMove c s x := by
  have outside : ∀ {f : State → State}, exec c s = answer (outOfReset f s) → PathAside s (f s) →
      ∃ x, exec c s = answer x ∧ PathMove c s x := fun row h => ⟨_, row, pathMove_outOfReset h⟩
  cases c
  case causeWordRead form => exact ⟨_, rfl, .presented _⟩
  case programRowCompletion holds => exact outside rfl (completeProgramRow_aside holds s)
  case eraseAllCompletion => exact outside rfl (completeEraseAll_aside s)
  case setLockCompletion => exact outside rfl (completeSetLock_aside s)
  case arbiterGrant input =>
    obtain ⟨arriving, first⟩ := input
    cases arriving with
    | none => exact ⟨_, rfl, .granted first⟩
    | some r => exact ⟨_, rfl, .arrived r first⟩
  case processorTransactionEnd => exact ⟨_, rfl, .aside (endTransaction_aside s)⟩
  case fetchBurstCompletion =>
    refine ⟨_, rfl, ?_⟩
    unfold outOfReset endBurst
    split
    · exact .aside (PathAside.refl s)
    · split
      case h_1 b port => exact .ended b port
      all_goals exact .aside (PathAside.refl s)
  case primingComplete => exact outside rfl (primingTest_aside s)
  case waitingRecordExpansion => exact outside rfl (retryHead_aside s)
  case syncInRising => exact outside rfl (takeSync_aside s)
  case framePeriod => exact outside rfl (playPeriod_aside s)
  case starvedResume => exact outside rfl (resumePeriod_aside s)
  case starveLimit => exact outside rfl (starveLimitTest_showOnly s).aside
  case winddownCompletion => exact outside rfl (winddownPeriod_aside s)
  case windowEnd channel => exact outside rfl (endWindow_musicOnly channel s).aside
  case fieldPeriod => exact outside rfl (takeFieldPeriod_aside s)
  case deferredCloseApply v => exact outside rfl (deferredClosePeriod_aside v s)
  case colourPeriod => exact outside rfl (takeColourPeriod_aside s)
  case senseLevelChange input high => exact outside rfl (changeLevel_aside input high s)
  case debounceTimerExpiry input => exact outside rfl (timerExpires_aside input s)
  case windInRising => exact outside rfl (setGu_aside s _)
  case windGateExpiry => exact outside rfl (gateExpires_aside s)
  case resetAssert => exact ⟨_, rfl, .asserted⟩
  case resetRelease straps senses =>
    refine ⟨_, rfl, ?_⟩
    unfold endReset
    split
    case isTrue asserted => exact .released straps senses asserted
    case isFalse => exact .aside (PathAside.refl s)
  all_goals exact exec_written rfl

end Sys2Proof.Machine
end

section
/-! Proofs: no word on its way to memory reaches a published slot. -/

namespace Sys2Proof.Machine

/-! ## Addresses (R167, R168) -/

/-- The four bytes of a word address. -/
theorem toNat_toAddr (a : WordAddr) : a.toAddr.toNat = 4 * a.toNat := by
  rw [WordAddr.toAddr, BitVec.toNat_append, show (0 : BitVec 2).toNat = 0 from rfl, Nat.or_zero, Nat.shiftLeft_eq]
  omega

/-- Bytes of different words lie at different addresses. -/
theorem byte_ne_of_address_ne {a b : WordAddr} (h : a ≠ b) {j k : Nat} (hj : j < 4) (hk : k < 4) :
    a.toAddr.toNat + j ≠ b.toAddr.toNat + k := by
  have : a.toNat ≠ b.toNat := fun same => h (BitVec.eq_of_toNat_eq same)
  rw [toNat_toAddr, toNat_toAddr]
  omega

theorem inWindow_iff (base : BitVec 6) (a : WordAddr) : inWindow base a = true ↔ a.toNat / 262144 = base.toNat := by
  have lt := a.isLt
  rw [inWindow, decide_eq_true_iff, ← BitVec.toNat_inj, BitVec.extractLsb'_toNat, Nat.shiftRight_eq_div_pow]
  omega

theorem windowOffset_eq (a : WordAddr) : windowOffset a = 4 * (a.toNat % 262144) := by
  rw [windowOffset, BitVec.extractLsb'_toNat, Nat.shiftRight_zero]

/-- The words of one aligned place lie in the command page together. -/
theorem samePlace_page {a b : WordAddr} (h : samePlace a b) (page : windowOffset b < 0x01000) :
    windowOffset a < 0x01000 := by
  have place := congrArg BitVec.toNat h
  have lt := a.isLt
  have lt' := b.isLt
  rw [windowOffset_eq] at page ⊢
  simp only [BitVec.extractLsb'_toNat, Nat.shiftRight_eq_div_pow] at place
  omega

/-! ## Slots (R27, R42) -/

/-- Every slot published in `y` is published in `x`. -/
structure SlotsEase (x y : FetchUnit) : Prop where
  cue : ∀ slot, cueSlotPublished y slot = true → cueSlotPublished x slot = true
  audio : ∀ slot, audioSlotPublished y slot = true → audioSlotPublished x slot = true

/-- Nothing is published. -/
def NonePublished (x : FetchUnit) : Prop := cuePublished x = 0 ∧ audioPublished x = 0

theorem MarksKept.eases {x y : FetchUnit} (h : MarksKept x y) : SlotsEase x y := by
  obtain ⟨cueMark, cueFetch, audioMark, audioFetch⟩ := h
  constructor
  · intro slot
    rw [cueSlotPublished, cueSlotPublished, cuePublished, cuePublished, cueMark, cueFetch]; exact id
  · intro slot
    rw [audioSlotPublished, audioSlotPublished, audioPublished, audioPublished, audioMark, audioFetch]; exact id

theorem NonePublished.eases {y : FetchUnit} (h : NonePublished y) (x : FetchUnit) : SlotsEase x y := by
  obtain ⟨cue, audio⟩ := h
  constructor
  · intro slot published; simp [cueSlotPublished, cue] at published
  · intro slot published; simp [audioSlotPublished, audio] at published

theorem SlotsEase.trans {x y z : FetchUnit} (h : SlotsEase x y) (k : SlotsEase y z) : SlotsEase x z :=
  ⟨fun slot published => h.cue slot (k.cue slot published), fun slot published => h.audio slot (k.audio slot published)⟩

/-- A ring with a published slot has the slot at its fetch index published. -/
theorem SlotsEase.none {x y : FetchUnit} (h : SlotsEase x y) (k : NonePublished x) : NonePublished y := by
  obtain ⟨cue, audio⟩ := k
  constructor
  · by_contra some
    have first := h.cue y.cueFetch (by simp [cueSlotPublished]; omega)
    simp [cueSlotPublished, cue] at first
  · by_contra some
    have first := h.audio y.audioFetch (by simp [audioSlotPublished]; omega)
    simp [audioSlotPublished, audio] at first

theorem SlotsEase.protectedOffset {x y : FetchUnit} (h : SlotsEase x y) {offset : Nat}
    (k : Machine.protectedOffset y offset = true) : Machine.protectedOffset x offset = true := by
  unfold Machine.protectedOffset at k ⊢
  split at k
  · next audio => rw [if_pos audio]; exact h.audio _ k
  · next below =>
    rw [if_neg below]
    split at k
    · next cue => rw [if_pos cue]; exact h.cue _ k
    · cases k

theorem NonePublished.unprotected {x : FetchUnit} (h : NonePublished x) (offset : Nat) :
    protectedOffset x offset = false := by
  obtain ⟨cue, audio⟩ := h
  simp [protectedOffset, cueSlotPublished, audioSlotPublished, cue, audio]

/-- A fetch index that moves on past published slots publishes none (R38). -/
theorem published_of_fetched {n : Nat} [NeZero n] {mark fetch slot k : Fin n} (fetched : k.val ≤ (mark - fetch).val)
    (published : (slot - (fetch + k)).val < (mark - (fetch + k)).val) : (slot - fetch).val < (mark - fetch).val := by
  by_contra unpublished
  rw [← sub_sub, ← sub_sub, Fin.sub_val_of_le (Fin.le_def.mpr fetched),
    Fin.sub_val_of_le (Fin.le_def.mpr (fetched.trans (not_lt.mp unpublished)))] at published
  omega

/-! ## Words on their way (R168, R172) -/

/-- The words on their way to memory. -/
def onWay (s : State) : List BusWord := s.pu.waiting.flatMap Transaction.words ++ s.pu.assembling

/-- An operation that puts no word on its way and publishes no slot. -/
structure WayEases (s t : State) : Prop where
  words : ∀ w ∈ onWay t, w ∈ onWay s
  base : t.pu.base = s.pu.base
  slots : SlotsEase s.fu t.fu
  carried : t.pu.carried = true → s.pu.carried = true ∧ t.pu.assembling = s.pu.assembling

theorem WayEases.refl (s : State) : WayEases s s :=
  ⟨fun _ h => h, rfl, (MarksKept.refl s.fu).eases, fun h => ⟨h, rfl⟩⟩

theorem WayEases.trans {s t u : State} (h : WayEases s t) (k : WayEases t u) : WayEases s u where
  words w on := h.words w (k.words w on)
  base := k.base.trans h.base
  slots := h.slots.trans k.slots
  carried carries := by
    obtain ⟨before, assembling⟩ := k.carried carries
    exact (h.carried before).imp_right assembling.trans

theorem WayEases.protectedWord {s t : State} (h : WayEases s t) {a : WordAddr} (k : Machine.protectedWord t a = true) :
    Machine.protectedWord s a = true := by
  rw [Machine.protectedWord, Bool.and_eq_true] at k ⊢
  rw [← h.base]
  exact k.imp_right h.slots.protectedOffset

/-- The words on their way stay out of the published slots along an operation that puts none on its way and publishes
none. -/
theorem WayEases.waitingSound {s t : State} (h : WayEases s t) (waits : WaitingSound s) : WaitingSound t := by
  obtain ⟨words, carried⟩ := waits
  refine ⟨fun w on enabled => ?_, fun carries => ?_⟩
  · have free := words w (h.words w on) enabled
    by_contra slot
    rw [h.protectedWord (by simpa using slot)] at free
    cases free
  · obtain ⟨before, assembling⟩ := h.carried carries
    obtain ⟨some, none⟩ := carried before
    exact ⟨by rw [assembling]; exact some, h.slots.none none⟩

theorem PathAside.wayEases {s t : State} (h : PathAside s t) : WayEases s t where
  words w on := by rw [onWay, h.way.waiting, h.way.assembling] at on; exact on
  base := h.way.base
  slots := h.marks.eases
  carried carries := ⟨h.way.carried ▸ carries, h.way.assembling⟩

theorem protectedWord_none {s : State} (h : NonePublished s.fu) (a : WordAddr) : protectedWord s a = false := by
  rw [protectedWord, h.unprotected, Bool.and_false]

/-- No published slot lies in the command page. -/
theorem protectedWord_page {s : State} {a : WordAddr} (h : windowOffset a < 0x01000) : protectedWord s a = false := by
  rw [protectedWord, protectedOffset_low _ (by omega), Bool.and_false]

/-! ## Written words -/

/-- The words on their way after one more is pushed. -/
theorem mem_onWay_pushWord {w : BusWrite} {refused : Bool} {s : State} {v : BusWord} (h : v ∈ onWay (pushWord w refused s)) :
    v ∈ onWay s ∨ v = decidedWord w refused := by
  have waits : ∀ {ws : List BusWord} {q : List Transaction} {c : Prop} [Decidable c],
      v ∈ (if c then q else q ++ [.write ws]).flatMap Transaction.words → v ∈ q.flatMap Transaction.words ∨ v ∈ ws := by
    intro ws q c _ mem
    split at mem
    · exact .inl mem
    · simpa [List.flatMap_append, Transaction.words] using mem
  simp only [onWay, List.mem_append] at h ⊢
  by_cases burst : w.burst = true
  · by_cases last : w.address.extractLsb' 0 2 = 3
    · rw [pushWord_ends burst last] at h
      rcases h with waiting | none
      · rcases waits waiting with before | assembled
        · exact .inl (.inl before)
        · exact (List.mem_append.mp assembled).imp .inr List.mem_singleton.mp
      · cases none
    · rw [pushWord_assembles burst last] at h
      rcases h with before | assembled
      · exact .inl (.inl before)
      · exact (List.mem_append.mp assembled).imp .inr List.mem_singleton.mp
  · rw [pushWord_single (by simpa using burst)] at h
    rcases h with waiting | before
    · exact (waits waiting).imp .inl List.mem_singleton.mp
    · exact .inl (.inr before)

/-- A burst that is carried on has words of it on their way. -/
theorem carried_pushWord {w : BusWrite} {refused : Bool} {s : State} (h : (pushWord w refused s).pu.carried = true) :
    s.pu.carried = true ∧ (s.pu.assembling ≠ [] → (pushWord w refused s).pu.assembling ≠ []) := by
  by_cases burst : w.burst = true
  · by_cases last : w.address.extractLsb' 0 2 = 3
    · rw [pushWord_ends burst last] at h; cases h
    · rw [pushWord_assembles burst last] at h ⊢
      exact ⟨h, fun _ => by simp⟩
  · rw [pushWord_single (by simpa using burst)] at h ⊢
    exact ⟨h, id⟩

/-- A word pushed keeps the rule, when it goes without enables or outside the published slots. -/
theorem pushWord_waitingSound {w : BusWrite} {refused : Bool} {s : State} (waits : WaitingSound s)
    (free : (decidedWord w refused).enables ≠ 0 → protectedWord s w.address = false) :
    WaitingSound (pushWord w refused s) := by
  obtain ⟨words, carried⟩ := waits
  obtain ⟨-, -, -, -, -, -, fu, -⟩ := pushWord_beside w refused s
  have same : ∀ a, protectedWord (pushWord w refused s) a = protectedWord s a := fun a => by
    rw [protectedWord, protectedWord, fu, pushWord_kept]
  refine ⟨fun v on enabled => ?_, fun carries => ?_⟩
  · rw [same]
    rcases mem_onWay_pushWord on with before | rfl
    · exact words v before enabled
    · exact free enabled
  · obtain ⟨before, goesOn⟩ := carried_pushWord carries
    obtain ⟨some, none⟩ := carried before
    exact ⟨goesOn some, by rw [fu]; exact none⟩

/-- R168: a written word comes when no transaction waits, and within its burst. -/
abbrev ComesAlone (w : BusWrite) (s : State) : Prop :=
  s.pu.waiting = [] ∧ ∀ x ∈ s.pu.assembling, w.burst = true ∧ samePlace x.address w.address

/-- A word captured in the command page may publish slots, and has only words of its own place on their way with it. -/
theorem captureWord_page {w : BusWrite} (progEn : Bool) {s : State} (waits : WaitingSound s)
    (decides : transparent w.burst s = false) (alone : ComesAlone w s) (page : windowOffset w.address < 0x01000) :
    WaitingSound (captureWord w progEn s) := by
  obtain ⟨waiting, place⟩ := alone
  have way := captureWord_way w progEn s
  refine ⟨fun v on _ => ?_, fun carries => ?_⟩
  · rw [way.waiting, way.assembling, waiting] at on
    exact protectedWord_page (samePlace_page (place v on).2 page)
  · have carried : s.pu.carried = true := way.carried ▸ carries
    obtain ⟨x, mem⟩ := List.exists_mem_of_ne_nil _ (waits.2 carried).1
    simp [transparent, (place x mem).1, carried] at decides

/-- A captured word, and the word itself, stay out of the published slots. -/
theorem captureWord_waitingSound {w : BusWrite} (progEn : Bool) {s : State} (waits : WaitingSound s)
    (decides : transparent w.burst s = false) (admits : refusesWord s w.address = false) (alone : ComesAlone w s) :
    WaitingSound (captureWord w progEn s) ∧ protectedWord (captureWord w progEn s) w.address = false := by
  by_cases page : windowOffset w.address < 0x01000
  · exact ⟨captureWord_page progEn waits decides alone page, protectedWord_page page⟩
  · have eases := (captureWord_above progEn (w := w) (s := s) fun _ => by omega).wayEases
    refine ⟨eases.waitingSound waits, ?_⟩
    by_contra slot
    have published := eases.protectedWord (by simpa using slot)
    rw [protectedWord, Bool.and_eq_true] at published
    rw [(refusesWord_iff s w.address).mpr ⟨published.1, .inr published.2⟩] at admits
    cases admits

/-- While a word passes undecided nothing is published (R175). -/
theorem nonePublished_transparent {w : BusWrite} {s : State} (reset : ResetSound s) (waits : WaitingSound s)
    (passes : transparent w.burst s = true) : NonePublished s.fu := by
  rw [transparent, Bool.or_eq_true, Bool.and_eq_true] at passes
  rcases passes with asserted | ⟨-, carried⟩
  · obtain ⟨-, fu, -⟩ := reset asserted
    rw [fu]; exact ⟨rfl, rfl⟩
  · exact (waits.2 carried).2

/-- A written word keeps the words on their way out of the published slots (R168, R172, R175). -/
theorem decideWord_waitingSound {w : BusWrite} (progEn : Bool) {s : State} (reset : ResetSound s) (waits : WaitingSound s)
    (alone : ComesAlone w s) : WaitingSound (decideWord w progEn s) := by
  unfold decideWord
  split
  case isTrue passes =>
    rw [Bool.or_eq_true, decide_eq_true_iff] at passes
    refine pushWord_waitingSound waits fun enabled => ?_
    rcases passes with passes | masked
    · exact protectedWord_none (nonePublished_transparent reset waits passes) _
    · exact absurd masked enabled
  case isFalse decided =>
    rw [Bool.or_eq_true, not_or, Bool.not_eq_true] at decided
    split
    case isTrue =>
      have counted : PathAside s (raise .refused (s.setPu (s.pu.countRefused w))) :=
        ⟨⟨rfl, rfl, rfl, rfl, rfl, rfl⟩, MarksKept.refl s.fu⟩
      exact pushWord_waitingSound (counted.wayEases.waitingSound waits) fun enabled => absurd rfl enabled
    case isFalse admits =>
      obtain ⟨sound, free⟩ := captureWord_waitingSound progEn waits decided.1 (by simpa using admits) alone
      exact pushWord_waitingSound sound fun _ => free

/-! ## Memory -/

/-- Every word in a published slot reads as before. -/
def SlotsRead (s t : State) : Prop :=
  ∀ a : WordAddr, protectedWord s a = true → ∀ k < 4,
    Memory.read t.mem (a.toAddr.toNat + k) = Memory.read s.mem (a.toAddr.toNat + k)

theorem slotsRead_of {s t : State} (mem : t.mem = s.mem) : SlotsRead s t := fun _ _ _ _ => by rw [mem]

/-- What a grant does: nothing, a burst on the port, or the first waiting transaction on it, its data in memory (R173). -/
inductive Granted (s : State) : State → Prop where
  | none : Granted s s
  | fetch (k : BurstKind) : Granted s (s.setPu { s.pu with port := .fetch { kind := k, void := false }, waitCount := 0 })
  | processor (x : Transaction) (rest : List Transaction) (n : Fin 9) (h : s.pu.waiting = x :: rest) :
      Granted s (grantProcessor x rest n s)

theorem grantFetch_granted (s : State) : Granted s (grantFetch s) := by
  unfold grantFetch; split
  · exact .fetch _
  · exact .none

theorem grantWaiting_granted (n : Fin 9) (s : State) : Granted s (grantWaiting n s) := by
  unfold grantWaiting; split
  · exact .none
  · next x rest waiting => exact .processor x rest n waiting

theorem grantPort_granted (first : Bool) (s : State) : Granted s (grantPort first s) := by
  unfold grantPort; split
  · unfold grantClaim
    repeat' split
    · exact grantWaiting_granted _ s
    · exact grantFetch_granted s
    · exact grantFetch_granted s
    · exact grantWaiting_granted _ s
    · exact grantFetch_granted s
    · exact grantWaiting_granted _ s
  all_goals exact .none

/-- A granted transaction writes no word of a published slot. -/
theorem memoryAfter_slots {s : State} {x : Transaction} {rest : List Transaction} (memory : MemorySound s)
    (waits : WaitingSound s) (waiting : s.pu.waiting = x :: rest) (n : Fin 9) : SlotsRead s (grantProcessor x rest n s) := by
  intro a slot k lt
  cases x with
  | read r => rfl
  | write ws =>
    refine Memory.read_writeWords_outside memory ws _ fun w mem j lt' enabled => ?_
    refine byte_ne_of_address_ne (fun same => ?_) lt' lt
    have on : w ∈ s.pu.waiting.flatMap Transaction.words ++ s.pu.assembling := by
      rw [waiting]; simp [Transaction.words, mem]
    have masked : w.enables ≠ 0 := fun zero => by simp [zero] at enabled
    rw [← same, waits.1 w on masked] at slot
    cases slot

theorem Granted.wayEases {s t : State} (h : Granted s t) : WayEases s t := by
  cases h with
  | none => exact WayEases.refl s
  | fetch k => exact ⟨fun _ on => on, rfl, (MarksKept.refl s.fu).eases, fun carries => ⟨carries, rfl⟩⟩
  | processor x rest n waiting =>
    refine ⟨fun w on => ?_, rfl, (MarksKept.refl s.fu).eases, fun carries => ⟨carries, rfl⟩⟩
    rw [onWay, waiting, List.flatMap_cons, List.append_assoc]
    exact List.mem_append_right _ on

theorem Granted.slotsRead {s t : State} (h : Granted s t) (memory : MemorySound s) (waits : WaitingSound s) :
    SlotsRead s t := by
  cases h with
  | none => exact slotsRead_of rfl
  | fetch k => exact slotsRead_of rfl
  | processor x rest n waiting => exact memoryAfter_slots memory waits waiting n

/-! ## Reads, bursts and RESET_N -/

theorem presentRead_wayEases (r : BusRead) (s : State) : WayEases s (presentRead r s) := by
  unfold presentRead
  split
  · rw [answerRead_frame]
    exact ⟨fun _ on => on, rfl, (MarksKept.refl s.fu).eases, fun carries => ⟨carries, rfl⟩⟩
  · refine ⟨fun w on => ?_, rfl, (MarksKept.refl s.fu).eases, fun carries => ⟨carries, rfl⟩⟩
    simpa [onWay, waitRead, Transaction.words] using on

theorem settleArbiter_wayEases (s : State) : WayEases s (settleArbiter s) :=
  ⟨fun _ on => on, rfl, (MarksKept.refl s.fu).eases, fun carries => ⟨carries, rfl⟩⟩

/-- The record taken comes from a published slot, which is published no more (R38). -/
theorem recordTaken_wayEases {slot : Fin Config.cueSlots} {s : State} (published : 1 ≤ cuePublished s.fu) :
    WayEases s (recordTaken slot s) :=
  ⟨fun _ on => on, rfl, ⟨fun _ slot => decide_eq_true (published_of_fetched (k := 1) published (of_decide_eq_true slot)),
      fun _ => id⟩,
    fun carries => ⟨carries, rfl⟩⟩

/-- The frames taken come from published slots, which are published no more (R38). -/
theorem framesTaken_wayEases {slot : Fin Config.audioSlots} {two : Bool} {s : State}
    (published : (if two then 2 else 1) ≤ audioPublished s.fu) : WayEases s (framesTaken slot two s) := by
  have fetched : (if two then 2 else 1 : Fin Config.audioSlots).val ≤ audioPublished s.fu := by cases two <;> exact published
  exact ⟨fun _ on => on, rfl, ⟨fun _ => id, fun _ slot =>
    decide_eq_true (published_of_fetched fetched (of_decide_eq_true slot))⟩, fun carries => ⟨carries, rfl⟩⟩

theorem freePort_wayEases (s : State) : WayEases s (freePort s) :=
  ⟨fun _ on => on, rfl, (MarksKept.refl s.fu).eases, fun carries => ⟨carries, rfl⟩⟩

/-- A completed burst publishes no slot (R38, R39). -/
theorem completeBurst_wayEases {b : Burst} {s : State} (queues : QueuesSound s) (port : s.pu.port = .fetch b) :
    WayEases s (completeBurst b s) := by
  have sound := queues.burst
  rw [port] at sound
  match b, sound with
  | { kind := k, void := true }, _ => exact freePort_wayEases s
  | { kind := .cue slot, void := false }, .inr ⟨_, published, _⟩ =>
    rw [completeBurst_cue]
    split
    · exact (recordTaken_wayEases published).trans (examineHead_aside _).wayEases
    · exact recordTaken_wayEases published
  | { kind := .audio slot two, void := false }, .inr ⟨_, published, _⟩ =>
    rw [completeBurst_audio]
    exact (framesTaken_wayEases published).trans (primingTest_aside _).wayEases

theorem assertReset_wayEases (s : State) : WayEases s (assertReset s) :=
  ⟨fun _ on => on, rfl, NonePublished.eases ⟨rfl, rfl⟩ s.fu, fun carries => by cases carries⟩

theorem releaseReset_aside (straps : BitVec 6) (senses : Half) (s : State) :
    PathAside (sampled straps senses s) (releaseReset straps senses s) :=
  (((takeSets_aside _ _ _ _).trans (setGu_aside _ _)).trans (takeFieldPeriod_aside _)).trans (takeColourPeriod_aside _)

/-- At the release of RESET_N nothing is published, and a burst still coming is carried on (R175). -/
theorem releaseReset_waitingSound (straps : BitVec 6) (senses : Half) {s : State} (asserted : s.inReset = true)
    (reset : ResetSound s) : WaitingSound (releaseReset straps senses s) := by
  obtain ⟨-, fu, -⟩ := reset asserted
  have none : NonePublished (sampled straps senses s).fu := by
    change NonePublished s.fu
    rw [fu]; exact ⟨rfl, rfl⟩
  refine (releaseReset_aside straps senses s).wayEases.waitingSound ⟨fun w _ _ => protectedWord_none none _, fun carries => ?_⟩
  have coming : (!s.pu.assembling.isEmpty) = true := carries
  have some : s.pu.assembling ≠ [] := by simpa using coming
  exact ⟨some, none⟩

/-! ## Every command -/

theorem decideWord_mem (w : BusWrite) (progEn : Bool) (s : State) : (decideWord w progEn s).mem = s.mem := by
  have pushed : ∀ refused t, (pushWord w refused t).mem = t.mem := fun refused t => by rw [pushWord_frame]; rfl
  unfold decideWord
  repeat' split
  · exact pushed false s
  · rw [refuseWord_frame]; rfl
  · exact (pushed false _).trans (captureWord_way w progEn s).mem

theorem PathMove.waitingSound {c : Instr} {s x : State} (h : PathMove c s x) (reset : ResetSound s) (queues : QueuesSound s)
    (waits : WaitingSound s) (one : oneAtATime s c) : WaitingSound x := by
  cases h with
  | aside aside => exact aside.wayEases.waitingSound waits
  | written write => exact decideWord_waitingSound _ reset waits (one _ _ write)
  | presented r => exact (presentRead_wayEases r s).waitingSound waits
  | granted first => exact (grantPort_granted first s).wayEases.waitingSound waits
  | arrived r first =>
    have arrives := (presentRead_wayEases r s).trans (settleArbiter_wayEases _)
    exact (arrives.trans (grantPort_granted first _).wayEases).waitingSound waits
  | ended b port => exact (completeBurst_wayEases queues port).waitingSound waits
  | asserted => exact (assertReset_wayEases s).waitingSound waits
  | released straps senses asserted => exact releaseReset_waitingSound straps senses asserted reset

/-- Only a grant writes memory, and it writes no published slot. -/
theorem PathMove.slotsRead {c : Instr} {s x : State} (h : PathMove c s x) (memory : MemorySound s) (waits : WaitingSound s) :
    SlotsRead s x := by
  cases h with
  | aside aside => exact slotsRead_of aside.way.mem
  | written write => exact slotsRead_of (decideWord_mem _ _ s)
  | presented r => exact slotsRead_of (by rw [presentRead_frame]; rfl)
  | granted first => exact (grantPort_granted first s).slotsRead memory waits
  | arrived r first =>
    have arrives := (presentRead_wayEases r s).trans (settleArbiter_wayEases _)
    have fu : (settleArbiter (presentRead r s)).fu = s.fu := by rw [presentRead_frame]; rfl
    have mem : (settleArbiter (presentRead r s)).mem = s.mem := by rw [presentRead_frame]; rfl
    have kept := (grantPort_granted first _).slotsRead (by rw [MemorySound, mem]; exact memory)
      (arrives.waitingSound waits)
    intro a slot k lt
    rw [kept a (by rw [protectedWord, arrives.base, fu]; exact slot) k lt, mem]
  | ended b port => exact slotsRead_of (completeBurst_fetchOnly b s).mem
  | asserted => exact slotsRead_of rfl
  | released straps senses asserted => exact slotsRead_of (releaseReset_aside straps senses s).way.mem

theorem settle_wayEases (s : State) : WayEases s (settle s) :=
  ⟨fun _ on => on, rfl, MarksKept.eases ⟨rfl, rfl, rfl, rfl⟩, fun carries => ⟨carries, rfl⟩⟩

end Sys2Proof.Machine

open Sys2Proof Sys2Proof.Machine

/-- Settles O8: of the moves of the path (`exec_pathMove`) none puts a word with enables on its way into a published slot,
and none but a grant, which writes the words on their way, changes memory. -/
theorem protectedSlotsKept : Obligations.ProtectedSlotsKept := by
  unfold Obligations.ProtectedSlotsKept
  intro s t memory reset queues waits one taken
  unfold step at taken
  split at taken
  case h_1 => cases taken; exact ⟨waits, fun _ _ _ _ => rfl⟩
  case h_2 c rest queue =>
    obtain ⟨x, row, move⟩ := exec_pathMove c (s.setPending rest)
    rw [Host.Outcome.next.inj (taken.symm.trans row)]
    have queued : QueuesSound (s.setPending rest) := ⟨queues.fifo, queues.buffer, queues.burst, queues.resting, queues.request⟩
    exact ⟨(settle_wayEases x).waitingSound (move.waitingSound reset queued waits (one c rest queue)),
      move.slotsRead memory waits⟩

end

section
/-! Proofs: the arbiter's finding at the end of every command, and the grant that follows it. -/

namespace Sys2Proof.Machine

/-! ## The finding (R173, R174) -/

/-- What the arbiter finds among those waiting (R173). -/
theorem claimNow_eq (contest : Claim) (s : State) : claimNow contest s =
    if s.pu.waiting = [] then (if s.fu.fetchRequest then .due .fetch else .idle)
    else if s.fu.fetchRequest then .due contest else .due .processor := by
  unfold claimNow
  split
  case h_1 waiting none => simp [waiting, none]
  case h_2 waiting some => simp [waiting, some]
  case h_3 waiting none => simp [waiting, none]
  case h_4 waiting some => simp [waiting, some]

section
variable {s : State}

theorem arbitrate_granted (port : s.pu.port ≠ .free) : arbitrate s = .busy := by
  unfold arbitrate
  split
  case h_3 free => exact absurd free port
  all_goals rfl

theorem arbitrate_freed (port : s.pu.port = .free) (before : s.pu.arbiter = .busy) : arbitrate s = claimNow .both s := by
  simp only [arbitrate, port, before]

theorem arbitrate_arrivals (port : s.pu.port = .free) (before : s.pu.arbiter = .idle) :
    arbitrate s = claimNow .together s := by
  simp only [arbitrate, port, before]

theorem arbitrate_stands {claim : Claim} (port : s.pu.port = .free) (before : s.pu.arbiter = .due claim) :
    arbitrate s = if claimStands s claim = true then .due claim else claimNow .both s := by
  simp only [arbitrate, port, before]

end

/-- The end of an event changes nothing that the finding looks at once the fetch request is up to date. -/
theorem claimNow_settle (contest : Claim) (s : State) :
    claimNow contest (settleRequest (settleAttention s)) = claimNow contest (settle s) := by
  unfold claimNow; exact rfl

theorem claimStands_settle (claim : Claim) (s : State) :
    claimStands (settleRequest (settleAttention s)) claim = claimStands (settle s) claim := by
  cases claim <;> rfl

/-! ## What a command leaves of the finding before its end -/

theorem presentRead_arbiter (r : BusRead) (s : State) :
    (presentRead r s).pu.arbiter = s.pu.arbiter ∧ (presentRead r s).pu.port = s.pu.port := by
  unfold presentRead
  split
  · rw [answerRead_frame]; exact ⟨rfl, rfl⟩
  · exact ⟨rfl, rfl⟩

/-- A read that is not forwarded leaves those waiting. -/
theorem presentRead_waiting {r : BusRead} {s : State} (answered : answeredWord s r.address ≠ none) :
    (presentRead r s).pu.waiting = s.pu.waiting := by
  rw [presentRead_answered (Option.isSome_iff_ne_none.mpr answered), answerRead_frame]; rfl

/-- A claim that stands does so when a read arrives. -/
theorem claimStands_presentRead {r : BusRead} {s : State} {claim : Claim} (stands : claimStands s claim = true) :
    claimStands (presentRead r s) claim = true := by
  have request : (presentRead r s).fu.fetchRequest = s.fu.fetchRequest := by rw [presentRead_frame]; rfl
  have waits : (!s.pu.waiting.isEmpty) = true → (!(presentRead r s).pu.waiting.isEmpty) = true := by
    by_cases forwarded : answeredWord s r.address = none
    · rw [presentRead_forwarded forwarded, waitRead]; simp
    · rw [presentRead_waiting forwarded]; exact id
  cases claim with
  | processor => exact waits stands
  | fetch => exact request.trans stands
  | both | together =>
    rw [claimStands, Bool.and_eq_true] at stands ⊢
    exact ⟨waits stands.1, request.trans stands.2⟩

theorem decideWord_arbiter (w : BusWrite) (progEn : Bool) (s : State) :
    (decideWord w progEn s).pu.arbiter = s.pu.arbiter := by
  have pushed : ∀ refused t, (pushWord w refused t).pu.arbiter = t.pu.arbiter := fun refused t => by rw [pushWord_kept]
  unfold decideWord
  repeat' split
  · exact pushed false s
  · rw [refuseWord_pu]; exact pushed true _
  · exact (pushed false _).trans (captureWord_way w progEn s).arbiter

theorem completeBurst_arbiter (b : Burst) (s : State) : (completeBurst b s).pu.arbiter = s.pu.arbiter := by
  match b with
  | { kind := k, void := true } => rfl
  | { kind := .cue slot, void := false } =>
    rw [completeBurst_cue]
    split
    · exact (examineHead_aside (recordTaken slot s)).way.arbiter
    · rfl
  | { kind := .audio slot two, void := false } =>
    rw [completeBurst_audio]
    exact (primingTest_aside (framesTaken slot two s)).way.arbiter

theorem Granted.arbiter {s t : State} (h : Granted s t) : t.pu.arbiter = s.pu.arbiter := by cases h <;> rfl

/-- A port left free by a grant was free, and nothing was granted. -/
theorem Granted.none_of_free {s t : State} (h : Granted s t) (free : t.pu.port = .free) : t = s := by
  cases h with
  | none => rfl
  | fetch k => cases free
  | processor x rest n waiting => cases free

/-- A processor transaction that alone waits is granted (R173). -/
theorem grantPort_alone (first : Bool) {s : State} {x : Transaction} {rest : List Transaction} (port : s.pu.port = .free)
    (due : s.pu.arbiter = .due .processor) (waiting : s.pu.waiting = x :: rest) :
    grantPort first s = grantProcessor x rest s.pu.waitCount s := by
  simp only [grantPort, port, due, grantClaim, grantWaiting, waiting]

/-- A granted port is not granted again. -/
theorem grantPort_taken (first : Bool) {s : State} (port : s.pu.port ≠ .free) : grantPort first s = s := by
  unfold grantPort
  split
  case h_1 free _ => exact absurd free port
  all_goals rfl

/-- A forwarded read that arrives alone at a free port is found by the arbiter (R173). -/
theorem arrived_alone (r : BusRead) {s : State} (port : s.pu.port = .free) (idle : s.pu.arbiter = .idle)
    (waiting : s.pu.waiting = []) (request : s.fu.fetchRequest = false) :
    (settleArbiter (waitRead r s)).pu.arbiter = .due .processor ∧
    (settleArbiter (waitRead r s)).pu.waiting = [.read r] := by
  have joined : (waitRead r s).pu.waiting = [.read r] := by rw [waitRead, waiting]; rfl
  have none : (waitRead r s).fu.fetchRequest = false := request
  refine ⟨?_, joined⟩
  refine (arbitrate_arrivals (s := waitRead r s) port idle).trans ?_
  rw [claimNow_eq, joined, none]; rfl

/-- A read that arrives at a free port and is not granted leaves the finding. -/
theorem arrived_arbiter (r : BusRead) (first : Bool) {s : State} (sound : ArbiterSound s)
    (free : (grantPort first (settleArbiter (presentRead r s))).pu.port = .free) :
    (grantPort first (settleArbiter (presentRead r s))).pu.arbiter = s.pu.arbiter := by
  have granted := grantPort_granted first (settleArbiter (presentRead r s))
  have port : (presentRead r s).pu.port = .free := by
    have none := granted.none_of_free free
    rw [none] at free; exact free
  obtain ⟨arbiter, port'⟩ := presentRead_arbiter r s
  refine granted.arbiter.trans (?_ : arbitrate (presentRead r s) = s.pu.arbiter)
  obtain ⟨busy, idle, due⟩ := sound
  match before : s.pu.arbiter with
  | .busy => exact absurd before (busy.mp (port'.symm.trans port))
  | .due claim =>
    rw [dueStands, before] at due
    rw [arbitrate_stands port (arbiter.trans before), if_pos (claimStands_presentRead due)]
  | .idle =>
    obtain ⟨waiting, request⟩ := idle before
    by_cases forwarded : answeredWord s r.address = none
    · obtain ⟨alone, joined⟩ := arrived_alone r (port'.symm.trans port) before waiting request
      rw [presentRead_forwarded forwarded,
        grantPort_alone (s := settleArbiter (waitRead r s)) first (port'.symm.trans port) alone joined] at free
      cases free
    · have none : (presentRead r s).fu.fetchRequest = false := by rw [presentRead_frame]; exact request
      rw [arbitrate_arrivals port (arbiter.trans before), claimNow_eq, presentRead_waiting forwarded, waiting, none]; rfl

/-- Up to its end a command that leaves the port free leaves the finding. -/
theorem PathMove.arbiter {c : Instr} {s x : State} (h : PathMove c s x) (sound : ArbiterSound s)
    (free : x.pu.port = .free) : x.pu.arbiter = s.pu.arbiter := by
  cases h with
  | aside aside => exact aside.way.arbiter
  | written write => exact decideWord_arbiter _ _ s
  | presented r => exact (presentRead_arbiter r s).1
  | granted first => exact (grantPort_granted first s).arbiter
  | arrived r first => exact arrived_arbiter r first sound free
  | ended b port => exact completeBurst_arbiter b s
  | asserted => rfl
  | released straps senses asserted => exact (releaseReset_aside straps senses s).way.arbiter

/-! ## Grants (R35, R36, R173) -/

/-- The burst of a standing request is the first possible of R35's three places. -/
theorem chooseBurst_requested {s : State} (request : wantsFetch s = true) : chooseBurst s = some (
    let two := decide (s.fu.audioFetch.val % 2 = 0) && decide (2 ≤ audioPublished s.fu)
    if s.au.fifo.length < 256 ∧ 1 ≤ audioPublished s.fu then .audio s.fu.audioFetch two
    else if s.fu.cueBuffer.length < 4 ∧ 1 ≤ cuePublished s.fu ∧ s.fu.cueBlocked = false then .cue s.fu.cueFetch
    else .audio s.fu.audioFetch two) := by
  have possible : (chooseBurst s).isSome = true := by
    rw [wantsFetch, Bool.and_eq_true] at request; exact request.2
  have urgent : urgentRead s = true ↔ s.au.fifo.length < 256 ∧ 1 ≤ audioPublished s.fu := by
    simp [urgentRead]
  have cue : cuePossible s = true ↔ s.fu.cueBuffer.length < 4 ∧ 1 ≤ cuePublished s.fu ∧ s.fu.cueBlocked = false := by
    simp [cuePossible, and_assoc]
  dsimp only
  rw [chooseBurst] at possible ⊢
  simp only [← urgent, ← cue]
  split
  · rfl
  · split
    · rfl
    · split
      · rfl
      · simp_all

/-- The wait count stays while the request stands as the state has it (R174). -/
theorem waitAfterRequest_kept {s : State} (request : s.fu.fetchRequest = wantsFetch s) :
    waitAfterRequest s = s.pu.waitCount := by
  rw [waitAfterRequest, request]; simp

/-- A grant to the processor leaves the fetch request as it was (R34). -/
theorem wantsFetch_grantProcessor (x : Transaction) (rest : List Transaction) (n : Fin 9) {s : State}
    (port : s.pu.port = .free) : wantsFetch (grantProcessor x rest n s) = wantsFetch s := by
  unfold wantsFetch
  rw [port]; rfl

theorem grantWaiting_first {n : Fin 9} {s : State} {x : Transaction} {rest : List Transaction}
    (waiting : s.pu.waiting = x :: rest) : grantWaiting n s = grantProcessor x rest n s := by
  simp only [grantWaiting, waiting]

/-- Beside path unit and memory everything is as before. -/
def BesidePath (s t : State) : Prop :=
  ShowKept s t ∧ PlantKept s t ∧ FetchKept s t ∧ ReportKept s t ∧ t.inReset = s.inReset

/-- An event that touches path unit and memory alone. -/
theorem besidePath_settle (s : State) (x : PathUnit) (m : List Host.Cell) : BesidePath s (settle ((s.setPu x).setMem m)) := by
  have fu : ((s.setPu x).setMem m).fu = s.fu := rfl
  have ru : ((s.setPu x).setMem m).ru = s.ru := rfl
  refine ⟨⟨settle_sq _, settle_au _⟩, ⟨settle_wu _, settle_lu _, settle_gu _, settle_ls _⟩, fetchKept_settle fu,
    reportKept_settle ru, settle_inReset _⟩

/-- The path unit at the end of a grant. -/
theorem settle_granted {x : State} (taken : x.pu.port ≠ .free) {n : Fin 9} (count : waitAfterRequest x = n) :
    (settle x).pu = { x.pu with waitCount := n, arbiter := .busy } := by
  have busy : (settle x).pu.arbiter = .busy := arbitrate_granted taken
  rw [settle_pu, settle_waitCount, count, busy]

/-- The state at the end of a grant to the processor. -/
theorem settle_grantProcessor (x : Transaction) (rest : List Transaction) (n : Fin 9) {s : State} (request : RequestSound s)
    (port : s.pu.port = .free) :
    (settle (grantProcessor x rest n s)).pu = { s.pu with
      port := .processor x, waiting := rest, waitCount := n, arbiter := .busy } ∧
    BesidePath s (settle (grantProcessor x rest n s)) := by
  have count : waitAfterRequest (grantProcessor x rest n s) = n :=
    waitAfterRequest_kept (request.trans (wantsFetch_grantProcessor x rest n port).symm)
  exact ⟨settle_granted (fun free => by cases free) count, besidePath_settle s _ _⟩

/-- The state at the end of a grant to the fetch unit. -/
theorem settle_grantFetch {k : BurstKind} {s : State} (chosen : chooseBurst s = some k) :
    (settle (grantFetch s)).pu = { s.pu with
      port := .fetch { kind := k, void := false }, waitCount := 0, arbiter := .busy } ∧
    BesidePath s (settle (grantFetch s)) ∧ GroundKept s (settle (grantFetch s)) := by
  have granted : grantFetch s =
      (s.setPu { s.pu with port := .fetch { kind := k, void := false }, waitCount := 0 }).setMem s.mem := by
    simp only [grantFetch, chosen]; rfl
  have count : waitAfterRequest (grantFetch s) = 0 := by rw [granted]; exact ite_self 0
  rw [granted] at count ⊢
  exact ⟨settle_granted (fun free => by cases free) count, besidePath_settle s _ _,
    groundKept_of (settle_inReset _) (settle_mem _)⟩

end Sys2Proof.Machine

open Sys2Proof Sys2Proof.Machine

/-- Settles O6: the finding after every command (`PathMove.arbiter`), the grants by what is due, and reads that arrive. -/
theorem grantFollowsTable : Obligations.GrantFollowsTable := by
  unfold Obligations.GrantFollowsTable
  refine ⟨fun c s t sound taken => ?_, fun s first request port => ?_, fun s r first forwarded => ?_⟩
  · obtain ⟨x, row, move⟩ := exec_pathMove c s
    rw [Host.Outcome.next.inj (taken.symm.trans row)]
    have before := move.arbiter sound
    obtain ⟨busy, -, -⟩ := sound
    dsimp only
    rw [settle_arbiter, ← claimNow_eq, ← claimNow_eq, ← claimNow_settle, ← claimNow_settle]
    refine ⟨fun granted => arbitrate_granted granted, fun free taken => ?_, fun free idle => ?_, fun claim free due => ?_⟩
    · have was : s.pu.arbiter = .busy := by
        by_contra other
        exact taken (busy.mpr other)
      exact arbitrate_freed free ((before free).trans was)
    · exact arbitrate_arrivals free ((before free).trans idle)
    · rw [← claimStands_settle]
      exact arbitrate_stands free ((before free).trans due)
  · intro grant granted toFetch
    have completes : ∀ {x : State} {P : State → Prop}, grantPort first s = x → P (settle x) → Completes grant s P :=
      fun same h => ⟨_, by rw [← same]; rfl, h⟩
    have due : ∀ {claim}, s.pu.arbiter = .due claim → grantPort first s = grantClaim first claim s := fun arbiter => by
      simp only [grantPort, port, arbiter]
    have toProcessor : ∀ {x rest n}, s.pu.waiting = x :: rest → grantPort first s = grantWaiting n s →
        Completes grant s (granted (.processor x) rest n) := fun waiting same =>
      completes (same.trans (grantWaiting_first waiting)) (settle_grantProcessor _ _ _ request port)
    have fetches : s.fu.fetchRequest = true → grantPort first s = grantFetch s → Completes grant s toFetch :=
      fun stands same => by
        obtain ⟨pu, kept, ground⟩ := settle_grantFetch (chooseBurst_requested (request.symm.trans stands))
        exact completes same ⟨⟨pu, kept⟩, ground⟩
    refine ⟨fun idle => ?_, fun x rest arbiter waiting => toProcessor waiting (due arbiter),
      fun arbiter stands => fetches stands (due arbiter), fun x rest arbiter waiting stands => ⟨fun few => ?_, fun full => ?_⟩,
      fun x rest arbiter waiting stands => ⟨fun processor => ?_, fun fetch => ?_⟩⟩
    · have none : grantPort first s = s := by simp only [grantPort, port, idle]
      exact completes none ⟨nothingDone_settle s, waitAfterRequest_kept request⟩
    · exact toProcessor waiting ((due arbiter).trans (if_neg few))
    · exact fetches stands ((due arbiter).trans (if_pos full))
    · exact toProcessor waiting ((due arbiter).trans (if_neg (by simpa using processor)))
    · exact fetches stands ((due arbiter).trans (if_pos fetch))
  · intro arrives
    have row : exec arrives s = answer (grantPort first (settleArbiter (presentRead r s))) := rfl
    rw [presentRead_forwarded forwarded] at row
    refine ⟨fun request port idle waiting none => ?_, fun port => ?_⟩
    · obtain ⟨due, joined⟩ := arrived_alone r port idle waiting none
      rw [grantPort_alone (s := settleArbiter (waitRead r s)) first port due joined] at row
      obtain ⟨pu, -⟩ := settle_grantProcessor (s := settleArbiter (waitRead r s)) (.read r) [] s.pu.waitCount request port
      obtain ⟨kept, plant, fetch, report, -⟩ :=
        besidePath_settle s (grantProcessor (.read r) [] s.pu.waitCount (settleArbiter (waitRead r s))).pu s.mem
      have ground : GroundKept s (settle (grantProcessor (.read r) [] s.pu.waitCount (settleArbiter (waitRead r s)))) :=
        groundKept_of (settle_inReset _) (settle_mem _)
      exact ⟨_, row, pu.trans (by rw [← waiting]; rfl), kept, plant, fetch, report, ground⟩
    · rw [grantPort_taken (s := settleArbiter (waitRead r s)) first port] at row
      obtain ⟨kept, plant, fetch, report, -⟩ := besidePath_settle s (settleArbiter (waitRead r s)).pu s.mem
      exact ⟨_, row, settle_pu _, kept, plant, fetch, report, groundKept_of (settle_inReset _) (settle_mem _)⟩

end

section
/-! Proofs: the data of a granted transaction. -/

namespace Sys2Proof.Machine

/-- Every enabled byte of written words at different addresses is in memory after them. -/
theorem read_writeWords_inside {m : List Host.Cell} (h : Memory.wf m) {ws : List BusWord}
    (apart : ws.Pairwise (fun v w => v.address ≠ w.address)) {w : BusWord} (mem : w ∈ ws) {k : Nat} (lt : k < 4)
    (enabled : w.enables.getLsbD k = true) :
    Memory.read (Memory.writeWords m ws) (w.address.toAddr.toNat + k) = wordByte w.data k := by
  induction ws generalizing m with
  | nil => cases mem
  | cons v ws ih =>
    obtain ⟨first, rest⟩ := List.pairwise_cons.mp apart
    have wf := Memory.wf_writeWord h v
    have after : Memory.writeWords m (v :: ws) = Memory.writeWords (Memory.writeWord m v) ws := rfl
    rw [after]
    rcases List.mem_cons.mp mem with rfl | later
    · rw [Memory.read_writeWords_outside wf ws _ fun x on j small _ => byte_ne_of_address_ne (first x on).symm small lt,
        Memory.read_writeWord_lane h w k lt, if_pos enabled]
    · exact ih wf rest later

/-- The bytes no word of a transaction covers stay as they were. -/
theorem read_memoryAfter_outside {m : List Host.Cell} (h : Memory.wf m) (x : Transaction) {a : Nat}
    (outside : ∀ w ∈ x.words, ∀ k < 4, w.enables.getLsbD k = true → w.address.toAddr.toNat + k ≠ a) :
    Memory.read (memoryAfter m x) a = Memory.read m a := by
  cases x with
  | write ws => exact Memory.read_writeWords_outside h ws a outside
  | read r => rfl

/-- The enabled bytes of a transaction's words are in memory. -/
theorem read_memoryAfter_inside {m : List Host.Cell} (h : Memory.wf m) {x : Transaction}
    (apart : x.words.Pairwise (fun v w => v.address ≠ w.address)) {w : BusWord} (mem : w ∈ x.words) {k : Nat} (lt : k < 4)
    (enabled : w.enables.getLsbD k = true) :
    Memory.read (memoryAfter m x) (w.address.toAddr.toNat + k) = wordByte w.data k := by
  cases x with
  | write ws => exact read_writeWords_inside h apart mem lt enabled
  | read r => cases mem

/-- A grant that is due to the processor puts the first waiting transaction on the port (R173). -/
theorem grantPort_processor {first : Bool} {s : State} {x : Transaction} {rest : List Transaction}
    (port : s.pu.port = .free) (waiting : s.pu.waiting = x :: rest)
    (due : s.pu.arbiter = .due .processor ∨ (s.pu.arbiter = .due .both ∧ s.pu.waitCount ≠ 8) ∨
      (s.pu.arbiter = .due .together ∧ first = false)) : ∃ n, grantPort first s = grantProcessor x rest n s := by
  rcases due with alone | ⟨both, few⟩ | ⟨together, processor⟩
  · exact ⟨_, grantPort_alone first port alone waiting⟩
  · exact ⟨s.pu.waitCount + 1, by simp only [grantPort, port, both, grantClaim, if_neg few, grantWaiting_first waiting]⟩
  · exact ⟨_, by simp only [grantPort, port, together, grantClaim, processor, grantWaiting_first waiting]; rfl⟩

end Sys2Proof.Machine

open Sys2Proof Sys2Proof.Machine

/-- Settles O7: the memory a granted transaction leaves, and the end of the transaction on the port. -/
theorem grantedTransactionRuns : Obligations.GrantedTransactionRuns := by
  unfold Obligations.GrantedTransactionRuns
  refine ⟨fun s x rest first memory port waiting due => ?_, fun s x port => ?_⟩
  · obtain ⟨n, granted⟩ := grantPort_processor port waiting due
    have row : exec (.arbiterGrant { arriving := none, fetchFirst := first }) s = answer (grantPort first s) := rfl
    rw [granted] at row
    exact ⟨_, row, rfl, fun a outside => read_memoryAfter_outside memory x outside,
      fun apart w mem k lt enabled => read_memoryAfter_inside memory apart mem lt enabled⟩
  · have row : exec .processorTransactionEnd s = answer (endTransaction s) := rfl
    have ends : endTransaction s =
        (s.setPu { s.pu with port := .free, readData := dataReturned s x }).setMem s.mem := by
      simp only [endTransaction, port]; rfl
    rw [ends] at row
    obtain ⟨kept, plant, fetch, report, -⟩ := besidePath_settle s { s.pu with port := .free, readData := dataReturned s x } s.mem
    refine ⟨_, row, ?_, kept, plant, groundKept_of (settle_inReset _) (settle_mem _), fetch, report⟩
    cases x <;> exact settle_pu _

end

section
/-! Proofs: answered reads. -/

namespace Sys2Proof.Machine

/-! ## Bursts (R168) -/

/-- The words of an aligned burst, one after another. -/
theorem toNat_burst (a : WordAddr) {k : Nat} (lt : k < 4) :
    ((a &&& ~~~ (3 : WordAddr)) + BitVec.ofNat 24 k).toNat = 4 * (a.toNat / 4) + k := by
  have lower : a &&& ~~~ (3 : WordAddr) = (a >>> 2) <<< 2 := by
    refine BitVec.eq_of_getLsbD_eq fun i small => ?_
    rw [BitVec.getLsbD_and, BitVec.getLsbD_not, BitVec.getLsbD_shiftLeft, BitVec.getLsbD_ushiftRight, decide_eq_true small]
    match i with
    | 0 | 1 => simp
    | i + 2 =>
      have high : (3 : WordAddr).getLsbD (i + 2) = false := by
        have above : 3 < 2 ^ (i + 2) := by rw [Nat.pow_add]; have := Nat.one_le_two_pow (n := i); omega
        exact (BitVec.getLsbD_ofNat 24 3 (i + 2)).trans (by rw [Nat.testBit_lt_two_pow above, Bool.and_false])
      rw [high, Nat.add_comm i 2, Nat.add_sub_cancel_left, decide_eq_false (by omega : ¬2 + i < 2)]
      simp
  have bound := a.isLt
  rw [lower, BitVec.toNat_add, BitVec.toNat_shiftLeft, BitVec.toNat_ushiftRight, BitVec.toNat_ofNat, Nat.shiftLeft_eq,
    Nat.shiftRight_eq_div_pow]
  omega

/-- The aligned burst of a word lies in its window. -/
theorem inWindow_burst {base : BitVec 6} {a : WordAddr} (inside : inWindow base a = true) {k : Nat} (lt : k < 4) :
    inWindow base ((a &&& ~~~ (3 : WordAddr)) + BitVec.ofNat 24 k) = true := by
  rw [inWindow_iff] at inside ⊢
  rw [toNat_burst a lt]
  omega

/-- The offsets of an aligned burst in the window. -/
theorem windowOffset_burst (a : WordAddr) {k : Nat} (lt : k < 4) :
    windowOffset ((a &&& ~~~ (3 : WordAddr)) + BitVec.ofNat 24 k) = 16 * (windowOffset a / 16) + 4 * k := by
  rw [windowOffset_eq, windowOffset_eq, toNat_burst a lt]
  omega

theorem burstAddresses_eq (a : WordAddr) :
    burstAddresses a = (List.range 4).map fun k => (a &&& ~~~ (3 : WordAddr)) + BitVec.ofNat 24 k := by
  simp [burstAddresses, List.range_succ]

/-! ## The words of the answer (R156, R170) -/

/-- The word the part answers at a window offset of the status page or the limit view. -/
def wordAt (s : State) (offset : Nat) : Word :=
  if offset < 0x02000 then statusWord s (offset - 0x01000) else limitViewWord s.ls (offset - 0x02000)

theorem answeredWord_eq {s : State} {a : WordAddr} (out : s.inReset = false) (inside : inWindow s.pu.base a = true)
    (low : 0x01000 ≤ windowOffset a) (high : windowOffset a < 0x04000) :
    answeredWord s a = some (wordAt s (windowOffset a)) := by
  have asserted : ¬s.inReset = true := by simp [out]
  have region : regionOf s.pu.base a = if windowOffset a < 0x02000 then .statusPage else .limitView := by
    rw [regionOf, if_pos inside, regionOfOffset, if_neg (not_lt.mpr low)]
    exact ite_congr rfl (fun _ => rfl) fun _ => if_pos high
  rw [answeredWord, if_neg asserted, region, wordAt]
  by_cases page : windowOffset a < 0x02000
  · rw [if_pos page, if_pos page]
  · rw [if_neg page, if_neg page]

/-- The words of an answered read: of its address, or of its aligned burst (R170). -/
theorem answeredWords_eq {s : State} {r : BusRead} (out : s.inReset = false) (inside : inWindow s.pu.base r.address = true)
    (low : 0x01000 ≤ windowOffset r.address) (high : windowOffset r.address < 0x04000) :
    answeredWords s r =
      if r.burst then (List.range 4).map fun k => wordAt s (16 * (windowOffset r.address / 16) + 4 * k)
      else [wordAt s (windowOffset r.address)] := by
  rw [answeredWords, readAddresses]
  split
  · rw [burstAddresses_eq, List.map_map]
    refine List.map_congr_left fun k mem => ?_
    have lt := List.mem_range.mp mem
    have offset := windowOffset_burst r.address lt
    rw [Function.comp, answeredWord_eq out (inWindow_burst inside lt) (by omega) (by omega), offset]; rfl
  · rw [List.map_singleton, answeredWord_eq out inside low high]; rfl

/-! ## The cause word (R185) -/

/-- The cause word is among the words read. -/
theorem reads_causeWord {s : State} {r : BusRead} (inside : inWindow s.pu.base r.address = true) :
    (readAddresses r).any (isCauseWord s.pu.base) =
      if r.burst then decide (16 * (windowOffset r.address / 16) = 0x01140) else decide (windowOffset r.address = 0x01144) := by
  rw [readAddresses]
  split
  · have place : 16 * (windowOffset r.address / 16) = 0x01140 ↔
        ∃ k < 4, 16 * (windowOffset r.address / 16) + 4 * k = 0x01144 := by
      constructor
      · exact fun first => ⟨1, by omega, by omega⟩
      · rintro ⟨k, lt, offset⟩; omega
    rw [burstAddresses_eq, List.any_map, Bool.eq_iff_iff, List.any_eq_true, decide_eq_true_iff, place]
    refine exists_congr fun k => and_congr List.mem_range Iff.rfl |>.trans (and_congr_right fun lt => ?_)
    rw [Function.comp, isCauseWord, inWindow_burst inside lt, windowOffset_burst r.address lt]
    rw [Bool.true_and, decide_eq_true_iff]; exact Iff.rfl
  · rw [List.any_cons, List.any_nil, Bool.or_false, isCauseWord, inside]; rfl

/-- The cause that a read of the cause word returns, and it alone, leaves the pending set (R185). -/
theorem getLsbD_dropTopCause (x : ReportUnit) (j : Fin 9) : (dropTopCause x).pending.getLsbD j =
    (x.pending.getLsbD j && !decide (causeNumber x = j.val + 1)) := by
  unfold dropTopCause causeNumber
  split
  case h_1 k top => rw [getLsbD_bitErase]; simp
  case h_2 none => simp

theorem dropTopCause_frame (x : ReportUnit) : dropTopCause x = { x with pending := (dropTopCause x).pending } := by
  unfold dropTopCause; split <;> rfl

/-- Byte k of a word of four bytes. -/
theorem wordByte_wordOfBytes (f : Nat → Byte) {k : Nat} (lt : k < 4) :
    wordByte (wordOfBytes (f 0) (f 1) (f 2) (f 3)) k = f k := by
  refine BitVec.eq_of_toNat_eq ?_
  rw [wordByte, BitVec.extractLsb'_toNat, toNat_wordOfBytes, Nat.shiftRight_eq_div_pow]
  have := (f 0).isLt; have := (f 1).isLt; have := (f 2).isLt; have := (f 3).isLt
  match k with
  | 0 | 1 | 2 | 3 => omega

/-! ## An answered read at the port -/

/-- No grant is due at the port, and none comes due by a read that the part answers. -/
def NoGrantDue (s : State) : Prop :=
  s.pu.port ≠ .free ∨ (s.pu.arbiter = .idle ∧ s.pu.waiting = [] ∧ s.fu.fetchRequest = false)

/-- The arbiter grants nothing after an answered read (R173). -/
theorem grantPort_answerRead (r : BusRead) (first : Bool) {s : State} (quiet : NoGrantDue s) :
    grantPort first (settleArbiter (answerRead r s)) = settleArbiter (answerRead r s) := by
  have answered : (answerRead r s).pu = { s.pu with readData := answeredWords s r } := by rw [answerRead_frame]; rfl
  have request : (answerRead r s).fu.fetchRequest = s.fu.fetchRequest := by rw [answerRead_frame]; rfl
  by_cases port : (answerRead r s).pu.port = .free
  · rw [answered] at port
    obtain taken | ⟨idle, waiting, stands⟩ := quiet
    · exact absurd port taken
    have found : (settleArbiter (answerRead r s)).pu.arbiter = .idle := by
      refine (arbitrate_arrivals (by rw [answered]; exact port) (by rw [answered]; exact idle)).trans ?_
      rw [claimNow_eq, answered, waiting, request, stands]; rfl
    unfold grantPort
    rw [found]
    split
    case h_1 claim _ due => cases due
    all_goals rfl
  · exact grantPort_taken (s := settleArbiter (answerRead r s)) first port

/-- An answered read of the cause word removes the cause it returned (R185). -/
theorem answerRead_ru (r : BusRead) (s : State) : (answerRead r s).ru =
    if (readAddresses r).any (isCauseWord s.pu.base) then dropTopCause s.ru else s.ru := by
  unfold answerRead; dsimp only; split <;> rfl

/-- The path unit after an answered read (R170). -/
theorem settle_answerRead (r : BusRead) (s : State) :
    (settle (settleArbiter (answerRead r s))).pu = { s.pu with
      waitCount := (settle (settleArbiter (answerRead r s))).pu.waitCount
      arbiter := (settle (settleArbiter (answerRead r s))).pu.arbiter, readData := answeredWords s r } := by
  have answered : (answerRead r s).pu = { s.pu with readData := answeredWords s r } := by rw [answerRead_frame]; rfl
  have found : (settleArbiter (answerRead r s)).pu =
      { (answerRead r s).pu with arbiter := (settleArbiter (answerRead r s)).pu.arbiter } := rfl
  rw [settle_pu, found, answered]

/-- Beside path unit and report unit everything is as before. -/
theorem answerRead_beside (r : BusRead) (s : State) :
    ShowKept s (settle (settleArbiter (answerRead r s))) ∧ PlantKept s (settle (settleArbiter (answerRead r s))) ∧
    GroundKept s (settle (settleArbiter (answerRead r s))) ∧ FetchKept s (settle (settleArbiter (answerRead r s))) := by
  rw [answerRead_frame]
  generalize (answerRead r s).ru = q
  generalize { s.pu with readData := answeredWords s r } = p
  have fu : (settleArbiter ((s.setPu p).setRu q)).fu = s.fu := rfl
  exact ⟨⟨settle_sq _, settle_au _⟩, ⟨settle_wu _, settle_lu _, settle_gu _, settle_ls _⟩,
    groundKept_of (settle_inReset _) (settle_mem _), fetchKept_settle fu⟩

end Sys2Proof.Machine

open Sys2Proof Sys2Proof.Machine

/-- Settles O29: the words of an answered read, and the bytes of a word of the limit view. -/
theorem answeredReadsReturnWords : Obligations.AnsweredReadsReturnWords := by
  unfold Obligations.AnsweredReadsReturnWords
  refine ⟨fun s r fetchFirst out inside low high quiet => ?_, fun x offset k lt => ?_⟩
  · have row : exec (.arbiterGrant { arriving := some r, fetchFirst := fetchFirst }) s =
        answer (grantPort fetchFirst (settleArbiter (presentRead r s))) := rfl
    have answered : (answeredWord s r.address).isSome = true := by rw [answeredWord_eq out inside low high]; rfl
    rw [presentRead_answered answered, grantPort_answerRead r fetchFirst quiet] at row
    have ru : (settleArbiter (answerRead r s)).ru = _ := answerRead_ru r s
    refine ⟨_, row, ?_, fun j => ?_, ?_, answerRead_beside r s⟩
    · rw [settle_answerRead, answeredWords_eq out inside low high]
      rfl
    · rw [settle_ru, ru, reads_causeWord inside]
      dsimp only
      generalize (if r.burst then _ else _ : Bool) = cause
      cases cause with
      | false => simp
      | true => exact (getLsbD_dropTopCause s.ru j).trans (by rw [Bool.true_and])
    · rw [settle_ru, ru]
      split
      · rw [dropTopCause_frame]
      · rfl
  · refine (wordByte_wordOfBytes (fun j => limitViewByte x (offset + j)) lt).trans ?_
    unfold limitViewByte lockByte; rfl

end

section
/-! Proofs: the assertion of RESET_N, and the invariants of the state it leaves. -/

namespace Sys2Proof.Machine

/-- The end of the assertion leaves everything at its reset value, but for the arbiter's finding. -/
theorem settle_assertReset (s : State) : ∃ found, settle (assertReset s) =
    { assertReset s with pu := { s.pu.atAssert with arbiter := found } } := by
  have request : (settle (assertReset s)).fu.fetchRequest = false := settle_fetchRequest_resting rfl
  have count : (settle (assertReset s)).pu.waitCount = 0 := (settle_waitCount _).trans (ite_self 0)
  have attention : attentionDue (assertReset s).ru = false := settle_attention_none (s := assertReset s) rfl
  refine ⟨(settle (assertReset s)).pu.arbiter, ?_⟩
  conv_lhs => rw [settle_frame, request, count, attention]
  rfl

/-- An operation cut short leaves its row, or the whole table, erased (R165). -/
theorem LimitStore.byte_tableAfterReset (x : LimitStore) {n : Nat} (lt : n < 2048) : x.tableAfterReset.byte n =
    match x.operation.map Operation.name with
    | some (.programRow r) => if n / 64 = r.val then 0xFF else x.table.byte n
    | some .eraseAll => 0xFF
    | some .setLock | none => x.table.byte n := by
  have name : x.operationName = x.operation.map Operation.name := rfl
  rw [LimitStore.tableAfterReset, name]
  match x.operation.map Operation.name with
  | some (.programRow r) =>
    refine (x.table.byte_setRow r Row.erased lt).trans ?_
    simp [Row.erased, Config.erasedByte]
  | some .eraseAll => exact LimitTable.byte_erased lt
  | some .setLock | none => rfl

theorem LimitStore.lockedAfterReset_eq (x : LimitStore) : x.lockedAfterReset =
    match x.operation.map Operation.name with
    | some .setLock | some .eraseAll => false
    | some (.programRow _) | none => x.locked := by
  unfold LimitStore.lockedAfterReset LimitStore.operationName; rfl

theorem Port.atAssert_eq (x : Port) : x.atAssert =
    match x with
    | .processor t => .processor t
    | .free | .fetch _ => .free := by
  cases x <;> rfl

end Sys2Proof.Machine

open Sys2Proof Sys2Proof.Machine

/-- Settles O54: the blocks at their reset values, then the limit store and the port as they were left. -/
theorem resetAssertSetsResetValues : Obligations.ResetAssertSetsResetValues := by
  unfold Obligations.ResetAssertSetsResetValues
  intro s
  have row : exec .resetAssert s = answer (assertReset s) := rfl
  obtain ⟨found, settled⟩ := settle_assertReset s
  rw [answer_eq, settled] at row
  refine ⟨_, row, rfl, ?_⟩
  refine ⟨rfl, rfl, rfl, rfl, rfl, rfl, rfl, rfl, rfl, rfl, rfl, rfl, rfl, rfl, rfl, rfl, rfl, rfl, rfl, rfl,
    getFin_replicate _, getFin_replicate _, getFin_replicate _, ?_⟩
  refine ⟨rfl, rfl, rfl, rfl, rfl, rfl, fun _ => rfl, fun _ => ⟨rfl, rfl⟩, getFin_replicate _, ?_⟩
  refine ⟨rfl, rfl, rfl, rfl, rfl, fun p => ⟨getFin_replicate _ p, getFin_replicate _ p⟩, ?_⟩
  refine ⟨getFin_replicate _, getFin_replicate _, rfl, rfl, ?_⟩
  refine ⟨rfl, rfl, rfl, rfl, rfl, rfl, getFin_replicate _, rfl, rfl, ?_⟩
  refine ⟨rfl, rfl, rfl, rfl, rfl, getFin_replicate _, fun n lt => s.ls.byte_tableAfterReset lt, s.ls.lockedAfterReset_eq, ?_⟩
  exact ⟨rfl, rfl, rfl, rfl, rfl, rfl, rfl, s.pu.port.atAssert_eq, rfl, fun _ => rfl⟩

/-- Settles O60: at rest, the sets and queues empty, RESET_N asserted. -/
theorem invariantsHoldAtReset : Obligations.InvariantsHoldAtReset := by
  unfold Obligations.InvariantsHoldAtReset
  have released {P : Prop} (out : State.reset.inReset = false) : P := by cases out
  have off (c : Fin 4) : AudioUnit.reset.monitors[c] = Monitor.off := getFin_replicate _ c
  have dark (g : Fin 64) : LightUnit.reset.groups[g] = LightGroup.dark := getFin_replicate _ g
  have peak (c : Fin 4) : LightUnit.reset.latestPeak[c] = 0 := getFin_replicate _ c
  have water : WaterSound State.reset :=
    waterSound_resting rfl (by decide) ⟨rfl, getFin_replicate 0⟩ ⟨rfl, getFin_replicate 0⟩
  have queues : QueuesSound State.reset :=
    { fifo := Nat.zero_le _, buffer := Nat.zero_le _, burst := trivial, resting := fun _ => ⟨rfl, rfl, rfl⟩,
      request := fun raised => by cases raised }
  have monitors : MonitorsSound State.reset := fun c => by
    have channel : State.reset.au.monitors[c] = Monitor.off := off c
    rw [channel]; exact ⟨rfl, fun _ => ⟨rfl, rfl, rfl, rfl, rfl⟩⟩
  have peaks : PeaksSound State.reset :=
    ⟨fun c => (peak c).trans (congrArg Monitor.storedPeak (off c)).symm, fun g c follows => by
      cases (congrArg LightGroup.follow (dark g)).symm.trans follows⟩
  have holds : HoldsSound State.reset := by simp [HoldsSound, State.reset, Sequencer.reset]
  have record : RecordSound State.reset := by simp [RecordSound, State.reset, Sequencer.reset]
  have run : RunSound State.reset := fun divided => by cases divided
  have latches : LatchesSound State.reset := BitVec.zero_and.symm
  have attention : AttentionSound State.reset := by simp [AttentionSound, State.reset, ReportUnit.reset]
  have arbiter : ArbiterSound State.reset := ⟨by simp [State.reset, PathUnit.reset], fun _ => ⟨rfl, rfl⟩, rfl⟩
  have reset : ResetSound State.reset := fun _ => ⟨rfl, rfl, rfl, rfl, rfl, rfl, rfl, rfl, rfl, rfl, rfl, rfl, rfl⟩
  have waiting : WaitingSound State.reset := ⟨fun w mem => (by cases mem), fun carried => by cases carried⟩
  exact ⟨water, holds, record, rfl, ⟨Nat.zero_le _, .nil⟩, fun _ => rfl, run, queues, monitors, peaks, latches,
    fun out => released out, Memory.wf_reset, attention, rfl, arbiter, fun _ => rfl, fun out => released out, reset, waiting⟩

end

section
/-! Proofs: CLEAR_COUNTS, writes to SHOW_CMD that take no command, argument words and attention words. -/

namespace Sys2Proof.Machine

/-! ## Captures of the report unit -/

/-- What a captured word leaves whose capture makes `x` of the report unit of `s`: ATTN_N follows at once (R186). -/
structure ReportTaken (w : BusWrite) (x : ReportUnit) (s t : State) : Prop where
  ru : t.ru = { x with attention := decide (x.pending &&& x.enable ≠ 0) }
  kept : ShowKept s t
  plant : PlantKept s t
  ground : GroundKept s t
  fetch : FetchKept s t
  path : Forwarded w s t

theorem reportTaken_settle (w : BusWrite) (x : ReportUnit) (s : State) :
    ReportTaken w x s (settle (pushWord w false (s.setRu x))) := by
  have done := captureDone_settle w (s.setRu x)
  obtain ⟨-, -, -, -, -, -, -, ru, -, -⟩ := pushWord_beside w false (s.setRu x)
  have settled : (settle (pushWord w false (s.setRu x))).ru = { x with attention := attentionDue x } := by
    rw [settle_frame, ru_setRu, ru]; rfl
  exact ⟨settled, ⟨done.sq, done.au⟩, done.plant, done.ground.of_eq rfl rfl, done.fetch.of_eq rfl, done.path.of_eq rfl⟩

/-- A full write to a defined word of the report unit completes with its capture and the word posted (R171). -/
theorem completes_report {c : Instr} {offset : Nat} {value : Word} {burst : Bool} {capture : State → State}
    {x : ReportUnit} {s : State} {P : State → Prop} (row : exec c s = answer (captured offset value burst capture s))
    (path : PathDecides burst s) (effect : capture s = s.setRu x)
    (h : ∀ t, ReportTaken (fullWrite s.pu.base offset value burst) x s t → P t) : Completes c s P := by
  rw [captured_decides path, effect] at row
  exact ⟨_, row, h _ (reportTaken_settle _ x s)⟩

/-- ATTN_N aside, the report unit is what the capture made of it. -/
theorem ReportTaken.recorded {w : BusWrite} {code : Word} {outcome : CommandOutcome} {s t : State}
    (h : ReportTaken w { s.ru with code := code, outcome := outcome } s t) : Recorded code outcome s t := by
  rw [Recorded, h.ru]

/-! ## SHOW_CMD without a command (R178) -/

/-- A code outside R187's names no command. -/
theorem showCommandOf_unnamed {code : Word} (h : ¬(1 ≤ code.toNat ∧ code.toNat ≤ 13)) : showCommandOf code = none := by
  unfold showCommandOf
  split
  case h_14 => rfl
  all_goals omega

/-- A partial write to SHOW_CMD is recorded as such (R178). -/
theorem decideWord_partialCommand {w : BusWrite} {progEn : Bool} {s : State} (path : PathDecides w.burst s)
    (base : inWindow s.pu.base w.address = true) (cmd : windowOffset w.address = Config.showCmd) (some : w.enables ≠ 0)
    (enables : w.enables ≠ 15) : decideWord w progEn s = pushWord w false (recordResult 0 .partialWrite s) := by
  have admits : refusesWord s w.address = false :=
    refusesWord_false fun _ => by rw [cmd]; exact ⟨.inl (by decide), protectedOffset_low _ (by decide)⟩
  have capture : captureWord w progEn s = recordResult 0 .partialWrite s := by
    rw [captureWord, if_pos base, if_neg enables, if_pos cmd]; rfl
  rw [decideWord, transparent_decides path, admits, capture, decide_eq_false some]
  rfl

/-! ## Argument words (R177) -/

/-- A full write to an argument word replaces that copy (R177). -/
theorem takeArg_eq (i : Fin 3) (value : Word) (s : State) : takeArg i value s = s.setRu { s.ru with
    arg0 := if i = 0 then value else s.ru.arg0
    arg1 := if i = 1 then value else s.ru.arg1
    arg2 := if i = 2 then value else s.ru.arg2 } := by
  match i with
  | 0 => rfl
  | 1 => rfl
  | 2 => rfl

/-- Below the status page lies the command page (R169). -/
theorem regionOfOffset_commandPage {offset : Nat} (h : offset < 0x01000) : regionOfOffset offset = .commandPage := if_pos h

/-! ## Attention words (R183, R184) -/

/-- Bits 8 to 0 of an attention word name its causes (R183, R184). -/
theorem getLsbD_causeSet (value : Word) (k : Fin 9) : (causeSet value).getLsbD k = value.getLsbD k := by
  rw [causeSet, BitVec.getLsbD_extractLsb', decide_eq_true k.isLt, Bool.true_and, Nat.zero_add]

/-! ## CLEAR_COUNTS (R180) -/

/-- A word pushed leaves the refused count, whatever it is. -/
theorem pushWord_refusedCount (w : BusWrite) (refused : Bool) (n : Half) {s t : State}
    (pu : t.pu = { s.pu with refusedCount := n }) :
    (pushWord w refused t).pu = { (pushWord w refused s).pu with refusedCount := n } := by
  unfold pushWord
  dsimp only
  rw [pu]
  split <;> rfl

end Sys2Proof.Machine

open Sys2Proof Sys2Proof.Machine

/-- Settles O25: the posted write does not look at the counter that CLEAR_COUNTS sets in the path unit. -/
theorem countsCleared : Obligations.CountsCleared := by
  unfold Obligations.CountsCleared
  intro s burst path
  refine completes_captured rfl path fun t done => ?_
  have effect : takeCommand 0x0D .accepted clearCounters s = recordResult 0x0D .accepted (clearCounters s) := by
    rw [takeCommand, if_pos rfl]
  rw [effect] at done
  have posted := done.path
  rw [Forwarded, pushWord_refusedCount _ false 0 (s := s) rfl] at posted
  exact ⟨posted, done.sq, done.au, done.plant, done.ground.of_eq rfl rfl, done.fetch.of_eq rfl, done.report⟩

/-- Settles O26: values that name no command, partial writes to SHOW_CMD, and full and partial writes to argument words. -/
theorem unnamedAndArgumentWordsTaken : Obligations.UnnamedAndArgumentWordsTaken := by
  unfold Obligations.UnnamedAndArgumentWordsTaken
  refine ⟨fun s code burst path unnamed => ?_, fun s data enables burst path partly => ?_, fun s i value burst path => ?_,
    fun s w progEn path base arg enables => ?_⟩
  · have none : showCommandOf code = none := by
      refine showCommandOf_unnamed ?_
      simpa only [WellFormed, namesShowCommand, Bool.not_eq_true', decide_eq_false_iff_not] using unnamed
    have effect : takeShowCommand code s = recordResult code .refusedArg s := by simp only [takeShowCommand, none]
    exact completes_report rfl path effect fun t taken =>
      ⟨taken.kept, taken.plant, taken.ground, taken.fetch, taken.path, taken.recorded⟩
  · obtain ⟨some, some_not_all⟩ := of_decide_eq_true partly
    have decided := decideWord_partialCommand (progEn := false) (w :=
      { address := windowWord s.pu.base Config.showCmd, data := data, enables := enables, burst := burst }) path
      (inWindow_windowWord _ _) (windowOffset_windowWord _ rfl (by decide)) some some_not_all
    have taken := reportTaken_settle
      { address := windowWord s.pu.base Config.showCmd, data := data, enables := enables, burst := burst }
      { s.ru with code := 0, outcome := .partialWrite } s
    exact ⟨_, congrArg answer decided, taken.kept, taken.plant, taken.ground, taken.fetch, taken.recorded, taken.path⟩
  · refine completes_report rfl path (takeArg_eq i value s) fun t taken => ?_
    exact ⟨by rw [taken.ru], taken.kept, taken.plant, taken.ground, taken.fetch, taken.path⟩
  · have page := regionOfOffset_commandPage (offset := windowOffset w.address) (by omega)
    exact completes_forwarded (decideWord_partial path base (.inl page) (by simp only [Config.showCmd]; omega) enables)

/-- Settles O27: full writes to ATTN_ENABLE and to ATTN_CLEAR by the causes they name, and partial writes. -/
theorem attentionWordsTaken : Obligations.AttentionWordsTaken := by
  unfold Obligations.AttentionWordsTaken
  refine ⟨fun s value burst path => ?_, fun s value burst path => ?_, fun s w progEn path base word enables => ?_⟩
  · refine completes_report (x := { s.ru with enable := causeSet value }) rfl path rfl fun t taken => ?_
    rw [taken.ru]
    exact ⟨getLsbD_causeSet value, rfl, taken.kept, taken.plant, taken.ground, taken.fetch, taken.path⟩
  · refine completes_report (x := { s.ru with pending := s.ru.pending &&& ~~~ causeSet value }) rfl path rfl
      fun t taken => ?_
    rw [taken.ru]
    refine ⟨fun k => ?_, rfl, taken.kept, taken.plant, taken.ground, taken.fetch, taken.path⟩
    rw [BitVec.getLsbD_and, BitVec.getLsbD_not, decide_eq_true k.isLt, Bool.true_and, getLsbD_causeSet]
  · have page := regionOfOffset_commandPage (offset := windowOffset w.address) (by omega)
    exact completes_forwarded (decideWord_partial path base (.inl page) (by simp only [Config.showCmd]; omega) enables)

end

section
/-! Proofs: the read of the cause word. -/

namespace Sys2Proof.Machine

/-! ## The cause it returns (R185) -/

/-- The highest-priority cause in both sets is the one that has no other before it. -/
theorem topCause_eq {x : ReportUnit} {k : Fin 9} (pending : x.pending.getLsbD k = true) (enabled : x.enable.getLsbD k = true)
    (first : ∀ j : Fin 9, j < k → x.pending.getLsbD j = false ∨ x.enable.getLsbD j = false) : topCause x = some k.val := by
  refine List.find?_range_eq_some.mpr ⟨?_, List.mem_range.mpr k.isLt, fun j lt => ?_⟩
  · rw [BitVec.getLsbD_and, pending, enabled]; rfl
  · have neither := first ⟨j, lt.trans k.isLt⟩ lt
    rw [BitVec.getLsbD_and, Bool.not_eq_true', Bool.and_eq_false_iff]
    exact neither

theorem causeNumber_some {x : ReportUnit} {k : Nat} (top : topCause x = some k) : causeNumber x = k + 1 := by
  simp only [causeNumber, top]

theorem causeNumber_none {x : ReportUnit} (none : x.pending &&& x.enable = 0) : causeNumber x = 0 := by
  simp only [causeNumber, topCause_none none]

/-! ## The words it returns (R170, R185) -/

/-- The words of the aligned burst that the cause word lies in: the attention sets as they stand, the cause word, and two
words of zeros. -/
theorem attention_words (s : State) :
    wordAt s 0x01140 = s.ru.enable.setWidth 32 <<< 16 ||| s.ru.pending.setWidth 32 ∧
    wordAt s 0x01144 = BitVec.ofNat 32 (causeNumber s.ru) ∧ wordAt s 0x01148 = 0 ∧ wordAt s 0x0114C = 0 := by
  have sets : wordAt s 0x01140 = at_ 0 s.ru.pending.toNat ||| at_ 16 s.ru.enable.toNat := rfl
  have cause : wordAt s 0x01144 = at_ 0 (causeNumber s.ru) := rfl
  refine ⟨?_, ?_, rfl, rfl⟩
  · rw [sets, at_, at_, BitVec.ofNat_toNat, BitVec.ofNat_toNat, BitVec.shiftLeft_zero, BitVec.or_comm]
  · rw [cause, at_, BitVec.shiftLeft_zero]

/-- The offset that a read of the cause word is presented at: its own, or that of its aligned burst. -/
def causeOffset (form : ReadForm) : Nat := if form.burst then 0x01140 else 0x01144

theorem windowOffset_causeRead (base : BitVec 6) (form : ReadForm) :
    windowOffset (causeRead base form).address = causeOffset form := by
  unfold causeRead causeOffset
  cases form.burst <;> exact windowOffset_windowWord base rfl (by decide)

theorem inWindow_causeRead (base : BitVec 6) (form : ReadForm) : inWindow base (causeRead base form).address = true :=
  inWindow_windowWord base _

/-- A read of the cause word is answered with the cause word, in a burst after the sets as they stood (R170, R185). -/
theorem answeredWords_causeRead {s : State} (out : s.inReset = false) (form : ReadForm) :
    answeredWords s (causeRead s.pu.base form) =
      if form.burst then
        [s.ru.enable.setWidth 32 <<< 16 ||| s.ru.pending.setWidth 32, BitVec.ofNat 32 (causeNumber s.ru), 0, 0]
      else [BitVec.ofNat 32 (causeNumber s.ru)] := by
  obtain ⟨sets, cause, third, fourth⟩ := attention_words s
  have offset := windowOffset_causeRead s.pu.base form
  have place : 0x01000 ≤ causeOffset form ∧ causeOffset form < 0x04000 := by
    unfold causeOffset; cases form.burst <;> decide
  have same : (causeRead s.pu.base form).burst = form.burst := rfl
  rw [answeredWords_eq out (inWindow_causeRead _ _) (by rw [offset]; exact place.1) (by rw [offset]; exact place.2), offset,
    same, causeOffset]
  cases form.burst with
  | true =>
    change [wordAt s 0x01140, wordAt s 0x01144, wordAt s 0x01148, wordAt s 0x0114C] = [_, _, 0, 0]
    rw [sets, cause, third, fourth]
  | false => rw [← cause]; rfl

/-! ## What it leaves -/

/-- A read of the cause word removes the cause it returns (R185). -/
theorem readCauseWord_eq {s : State} (out : s.inReset = false) (form : ReadForm) : readCauseWord form s =
    (s.setPu { s.pu with readData := answeredWords s (causeRead s.pu.base form) }).setRu (dropTopCause s.ru) := by
  have offset := windowOffset_causeRead s.pu.base form
  have inside := inWindow_causeRead s.pu.base form
  have same : (causeRead s.pu.base form).burst = form.burst := rfl
  have reads : (readAddresses (causeRead s.pu.base form)).any (isCauseWord s.pu.base) = true := by
    rw [reads_causeWord inside, offset, same, causeOffset]
    cases form.burst <;> rfl
  have answered : (answeredWord s (causeRead s.pu.base form).address).isSome = true := by
    rw [answeredWord_eq out inside (by rw [offset, causeOffset]; split <;> decide)
      (by rw [offset, causeOffset]; split <;> decide)]
    rfl
  rw [readCauseWord, presentRead_answered answered, answerRead_frame, answerRead_ru, if_pos reads]

/-- A read of the cause word completes with the words of its answer, and leaves all but the cause it returns. -/
theorem completes_causeWordRead {form : ReadForm} {s : State} {P : State → Prop} (out : s.inReset = false)
    (h : ∀ t, t.ru = { dropTopCause s.ru with attention := t.ru.attention } →
      t.pu = { s.pu with
        waitCount := t.pu.waitCount, arbiter := t.pu.arbiter
        readData := answeredWords s (causeRead s.pu.base form) } →
      ShowKept s t ∧ PlantKept s t ∧ GroundKept s t ∧ FetchKept s t → P t) : Completes (.causeWordRead form) s P := by
  have row : exec (.causeWordRead form) s = answer (readCauseWord form s) := rfl
  rw [readCauseWord_eq out form] at row
  have done := eventEnd ((s.setPu { s.pu with readData := answeredWords s (causeRead s.pu.base form) }).setRu
    (dropTopCause s.ru))
  exact ⟨_, row, h _ done.report done.path
    ⟨⟨done.sq, done.au⟩, ⟨done.wu, done.lu, done.gu, done.ls⟩, done.ground.of_eq rfl rfl, done.fetch.of_eq rfl⟩⟩

end Sys2Proof.Machine

open Sys2Proof Sys2Proof.Machine

/-- Settles O28: the cause the read returns, by whether one is in both sets. -/
theorem causeWordReadRemovesCause : Obligations.CauseWordReadRemovesCause := by
  unfold Obligations.CauseWordReadRemovesCause
  refine fun s form out => ⟨fun k pending enabled first => ?_, fun none => ?_⟩
  · have number := causeNumber_some (topCause_eq pending enabled first)
    refine completes_causeWordRead out fun t ru pu beside => ⟨fun j => ?_, ?_, ?_, beside⟩
    · rw [ru, getLsbD_dropTopCause, number, ← decide_not]
      have others : ¬(k.val + 1 = j.val + 1) ↔ j ≠ k := by rw [Fin.ne_iff_vne]; omega
      rw [decide_eq_decide.mpr others]
    · rw [ru, dropTopCause_frame]
    · rw [answeredWords_causeRead out, number] at pu
      exact pu
  · refine completes_causeWordRead out fun t ru pu beside => ⟨?_, ?_, beside⟩
    · rw [dropTopCause_none none] at ru
      exact ru
    · rw [answeredWords_causeRead out, causeNumber_none none] at pu
      exact pu

end

section
/-! Proofs: the rules of monitors, followers and interlocks. `BlocksGo` is what an operation does that is neither a grant nor
a reset: it keeps these rules, RESET_N, the fetch request and the wait count. It composes. -/

namespace Sys2Proof.Machine

/-! ## The relation -/

/-- The rules of monitors, followers and interlocks, and of the table state, pass from one state to another. -/
structure RulesGo (s t : State) : Prop where
  monitors : MonitorsSound s → MonitorsSound t
  peaks : PeaksSound s → PeaksSound t
  latches : LatchesSound s → LatchesSound t
  matching : MatchesSound s → MatchesSound t
  tableState : TableStateSound s → TableStateSound t

/-- The rules pass on, and RESET_N, the fetch request and the wait count stand. -/
structure BlocksGo (s t : State) : Prop extends RulesGo s t where
  inReset : t.inReset = s.inReset
  request : t.fu.fetchRequest = s.fu.fetchRequest
  waitCount : t.pu.waitCount = s.pu.waitCount

/-- What the rules of the interlocks look at is the same. -/
structure InterlocksStand (s t : State) : Prop where
  matched : t.gu.matched = s.gu.matched
  latched : t.gu.latched = s.gu.latched
  debounced : t.gu.debounced = s.gu.debounced
  table : t.ls.table = s.ls.table
  tableState : t.ls.tableState = s.ls.tableState
  inReset : t.inReset = s.inReset

/-- No light group is newly bound or rescaled, and the latest peaks stand. -/
structure FollowersStand (x y : LightUnit) : Prop where
  latestPeak : y.latestPeak = x.latestPeak
  bound : ∀ (g : Fin 64) (c : Fin 4), y.groups[g].follow = some c →
    x.groups[g].follow = some c ∧ y.groups[g].scale = x.groups[g].scale

/-- RESET_N, the fetch request and the wait count stand. -/
structure CountsStand (s t : State) : Prop where
  inReset : t.inReset = s.inReset
  request : t.fu.fetchRequest = s.fu.fetchRequest
  waitCount : t.pu.waitCount = s.pu.waitCount

theorem RulesGo.refl (s : State) : RulesGo s s := ⟨id, id, id, id, id⟩

theorem RulesGo.trans {s t u : State} (h : RulesGo s t) (k : RulesGo t u) : RulesGo s u :=
  ⟨k.monitors ∘ h.monitors, k.peaks ∘ h.peaks, k.latches ∘ h.latches, k.matching ∘ h.matching,
    k.tableState ∘ h.tableState⟩

theorem BlocksGo.refl (s : State) : BlocksGo s s := ⟨RulesGo.refl s, rfl, rfl, rfl⟩

theorem BlocksGo.trans {s t u : State} (h : BlocksGo s t) (k : BlocksGo t u) : BlocksGo s u :=
  ⟨h.toRulesGo.trans k.toRulesGo, k.inReset.trans h.inReset, k.request.trans h.request, k.waitCount.trans h.waitCount⟩

theorem FollowersStand.refl (x : LightUnit) : FollowersStand x x := ⟨rfl, fun _ _ bound => ⟨bound, rfl⟩⟩

theorem FollowersStand.trans {x y z : LightUnit} (h : FollowersStand x y) (k : FollowersStand y z) : FollowersStand x z :=
  ⟨k.latestPeak.trans h.latestPeak, fun g c bound => by
    obtain ⟨before, scale⟩ := k.bound g c bound
    obtain ⟨first, same⟩ := h.bound g c before
    exact ⟨first, scale.trans same⟩⟩

theorem followersStand_of {x y : LightUnit} (h : y = x) : FollowersStand x y := h ▸ FollowersStand.refl x

/-- A change to every group that binds none. -/
theorem followersStand_mapGroups {x : LightUnit} {f : Fin 64 → LightGroup → LightGroup}
    (h : ∀ g r c, (f g r).follow = some c → r.follow = some c ∧ (f g r).scale = r.scale) :
    FollowersStand x (x.mapGroups f) :=
  ⟨rfl, fun g c bound => by rw [groups_mapGroups] at bound ⊢; exact h g _ c bound⟩

theorem monitorsSound_congr {s t : State} (monitors : t.au.monitors = s.au.monitors) (mute : t.au.muteSet = s.au.muteSet)
    (sound : MonitorsSound s) : MonitorsSound t := fun c => by
  rw [isMuted, monitors, mute]; exact sound c

theorem FollowersStand.peaks {s t : State} (h : FollowersStand s.lu t.lu) (monitors : t.au.monitors = s.au.monitors)
    (sound : PeaksSound s) : PeaksSound t := by
  obtain ⟨latest, scales⟩ := sound
  refine ⟨fun c => by rw [h.latestPeak, monitors]; exact latest c, fun g c bound => ?_⟩
  obtain ⟨before, scale⟩ := h.bound g c bound
  rw [scale, h.latestPeak]; exact scales g c before

/-- The patterns and the latching entries follow from the table, its state and the debounced levels. -/
theorem InterlocksStand.looks {s t : State} (h : InterlocksStand s t) : latchingSet t = latchingSet s ∧
    ∀ (edge : Option (Fin 16 × Bool)) (e : Nat), entryHolds t edge e = entryHolds s edge e := by
  refine ⟨by rw [latchingSet, h.table]; rfl, fun edge e => ?_⟩
  rw [entryHolds, LimitStore.valid, h.table, h.tableState, h.debounced]; rfl

section
variable {s t : State}

theorem InterlocksStand.latches (h : InterlocksStand s t) (sound : LatchesSound s) : LatchesSound t := by
  rw [LatchesSound, h.matched, h.latched, h.looks.1]; exact sound

theorem InterlocksStand.matching (h : InterlocksStand s t) (sound : MatchesSound s) : MatchesSound t := fun out e => by
  rw [h.table, h.matched, h.looks.2]; exact sound (h.inReset ▸ out) e

theorem InterlocksStand.tables (h : InterlocksStand s t) (sound : TableStateSound s) : TableStateSound t := fun out => by
  rw [h.table, h.tableState]; exact sound (h.inReset ▸ out)

/-- Where monitors, followers and interlocks stand, so do their rules. -/
theorem rulesGo_of (monitors : t.au.monitors = s.au.monitors) (mute : t.au.muteSet = s.au.muteSet)
    (followers : FollowersStand s.lu t.lu) (interlocks : InterlocksStand s t) : RulesGo s t :=
  ⟨monitorsSound_congr monitors mute, followers.peaks monitors, interlocks.latches, interlocks.matching, interlocks.tables⟩

end

theorem interlocksStand_of {s t : State} (gu : t.gu = s.gu) (ls : t.ls = s.ls) (inReset : t.inReset = s.inReset) :
    InterlocksStand s t := ⟨by rw [gu], by rw [gu], by rw [gu], by rw [ls], by rw [ls], inReset⟩

/-- Beside the counts nothing of what the rules look at has changed. -/
structure BlocksAside (s t : State) : Prop extends CountsStand s t where
  monitors : t.au.monitors = s.au.monitors
  mute : t.au.muteSet = s.au.muteSet
  lu : t.lu = s.lu
  gu : t.gu = s.gu
  ls : t.ls = s.ls

theorem BlocksAside.goes {s t : State} (h : BlocksAside s t) : BlocksGo s t :=
  ⟨rulesGo_of h.monitors h.mute (followersStand_of h.lu) (interlocksStand_of h.gu h.ls h.inReset), h.inReset, h.request,
    h.waitCount⟩

theorem BlocksAside.refl (s : State) : BlocksAside s s := ⟨⟨rfl, rfl, rfl⟩, rfl, rfl, rfl, rfl, rfl⟩

theorem BlocksAside.trans {s t u : State} (h : BlocksAside s t) (k : BlocksAside t u) : BlocksAside s u :=
  ⟨⟨k.inReset.trans h.inReset, k.request.trans h.request, k.waitCount.trans h.waitCount⟩, k.monitors.trans h.monitors,
    k.mute.trans h.mute, k.lu.trans h.lu, k.gu.trans h.gu, k.ls.trans h.ls⟩

theorem ShowOnly.blocksGo {s t : State} (h : ShowOnly s t) (followers : FollowersStand s.lu t.lu) : BlocksGo s t :=
  ⟨rulesGo_of (by rw [h.au]) (by rw [h.au]) followers (interlocksStand_of h.gu h.ls h.inReset), h.inReset, by rw [h.fu],
    by rw [h.pu]⟩

theorem HeadOnly.blocksAside {s t : State} (h : HeadOnly s t) (request : t.fu.fetchRequest = s.fu.fetchRequest) :
    BlocksAside s t :=
  ⟨⟨h.inReset, request, by rw [h.pu]⟩, by rw [h.au], by rw [h.au], h.lu, h.gu, h.ls⟩

theorem setSq_blocksAside (s : State) (x : Sequencer) : BlocksAside s (s.setSq x) :=
  ⟨⟨rfl, rfl, rfl⟩, rfl, rfl, rfl, rfl, rfl⟩
theorem setWu_blocksAside (s : State) (x : WaterUnit) : BlocksAside s (s.setWu x) :=
  ⟨⟨rfl, rfl, rfl⟩, rfl, rfl, rfl, rfl, rfl⟩
theorem setRu_blocksAside (s : State) (x : ReportUnit) : BlocksAside s (s.setRu x) :=
  ⟨⟨rfl, rfl, rfl⟩, rfl, rfl, rfl, rfl, rfl⟩
theorem setFu_blocksAside (s : State) (x : FetchUnit) (request : x.fetchRequest = s.fu.fetchRequest := by rfl) :
    BlocksAside s (s.setFu x) := ⟨⟨rfl, request, rfl⟩, rfl, rfl, rfl, rfl, rfl⟩
theorem setPu_blocksAside (s : State) (x : PathUnit) (waitCount : x.waitCount = s.pu.waitCount := by rfl) :
    BlocksAside s (s.setPu x) := ⟨⟨rfl, rfl, waitCount⟩, rfl, rfl, rfl, rfl, rfl⟩

/-- A change of the light unit that binds no group. -/
theorem setLu_blocksGo {s : State} {x : LightUnit} (followers : FollowersStand s.lu x) : BlocksGo s (s.setLu x) :=
  (ShowOnly.ofLu s x).blocksGo followers

/-- A change of the limit store beside the table and its state. -/
theorem setLs_blocksGo {s : State} {x : LimitStore} (table : x.table = s.ls.table)
    (tableState : x.tableState = s.ls.tableState) : BlocksGo s (s.setLs x) :=
  ⟨rulesGo_of rfl rfl (FollowersStand.refl s.lu) ⟨rfl, rfl, rfl, table, tableState, rfl⟩, rfl, rfl, rfl⟩

/-- A change of the guard unit beside its sets and the debounced levels. -/
theorem setGu_blocksGo {s : State} {x : GuardUnit} (matched : x.matched = s.gu.matched) (latched : x.latched = s.gu.latched)
    (debounced : x.debounced = s.gu.debounced) : BlocksGo s (s.setGu x) :=
  ⟨rulesGo_of rfl rfl (FollowersStand.refl s.lu) ⟨matched, latched, debounced, rfl, rfl, rfl⟩, rfl, rfl, rfl⟩

/-! ## Followers (R142, R143, R146, R147) -/

/-- A group without a binding follows nothing. -/
theorem LightGroup.unbind_follow {r : LightGroup} {c : Fin 4} {P : Prop} (h : r.unbind.follow = some c) : P := by cases h

theorem windDown_followers (kind : WinddownKind) (s : State) : FollowersStand s.lu (windDown kind s).lu := by
  rw [windDown_lu]; exact followersStand_mapGroups fun _ _ _ bound => LightGroup.unbind_follow bound

theorem takeFault_followers (cause : FaultCause) (s : State) : FollowersStand s.lu (takeFault cause s).lu := by
  have down : FollowersStand s.lu (windDown .fault (fillRecord cause s)).lu := windDown_followers .fault (fillRecord cause s)
  unfold takeFault
  split
  case h_1 | h_8 => exact FollowersStand.refl s.lu
  case h_7 =>
    split
    · exact followersStand_mapGroups (f := fun _ r => { r with fade := 0 }) fun _ _ _ bound => ⟨bound, rfl⟩
    · exact FollowersStand.refl s.lu
  all_goals exact down

theorem handTransition_followers (e : Fin 8) (s : State) : FollowersStand s.lu (handTransition e s).lu := by
  unfold handTransition
  dsimp only
  split
  · rw [holdEntryMatched_frame]; exact FollowersStand.refl s.lu
  · exact takeFault_followers _ (raise .interlock s)
  all_goals exact FollowersStand.refl s.lu

theorem handTransitions_followers (entries : Byte) (s : State) : FollowersStand s.lu (handTransitions entries s).lu := by
  unfold handTransitions
  generalize List.finRange 8 = es
  induction es generalizing s with
  | nil => exact FollowersStand.refl s.lu
  | cons e es ih =>
    rw [List.foldl_cons]
    refine FollowersStand.trans ?_ (ih _)
    split
    · exact handTransition_followers e s
    · exact FollowersStand.refl s.lu

/-- An evaluation binds no group. -/
theorem takeSets_followers (matched latched moved : Byte) (s : State) :
    FollowersStand s.lu (takeSets matched latched moved s).lu := by
  have ends : ∀ before t, FollowersStand t.lu (handHoldEnd before t).lu := fun before t => by
    rw [handHoldEnd_eq]; exact FollowersStand.refl t.lu
  exact (handTransitions_followers moved (withSets matched latched s)).trans (ends _ _)

theorem takeFault_blocksGo (cause : FaultCause) (s : State) : BlocksGo s (takeFault cause s) :=
  (takeFault_showOnly cause s).blocksGo (takeFault_followers cause s)

theorem windDown_blocksGo (kind : WinddownKind) (s : State) : BlocksGo s (windDown kind s) :=
  (windDown_showOnly kind s).blocksGo (windDown_followers kind s)

/-- A group that is bound takes the latest peak of its channel as its scale (R142). -/
theorem releaseFollow_peaks (g : Fin 64) (channel : Option (Fin 4)) {s : State} (sound : PeaksSound s) :
    PeaksSound (releaseFollow g channel s) := by
  obtain ⟨latest, scales⟩ := sound
  have group : ∀ (r : LightGroup) (h : Fin 64), (s.setLu (s.lu.setGroup g r)).lu.groups[h] =
      if h = g then r else s.lu.groups[h] := fun r h => groups_setGroup s.lu g h r
  have others : ∀ r : LightGroup, (∀ c, r.follow = some c → r.scale = s.lu.latestPeak[c]) →
      PeaksSound (s.setLu (s.lu.setGroup g r)) := fun r own => by
    refine ⟨latest, fun h c bound => ?_⟩
    rw [group] at bound ⊢
    split at bound
    case isTrue same => rw [if_pos same]; exact own c bound
    case isFalse other => rw [if_neg other]; exact scales h c bound
  cases channel with
  | some d => exact others _ fun c bound => by cases bound; rfl
  | none => exact others _ fun c bound => LightGroup.unbind_follow bound

theorem releaseFollow_blocksGo (g : Fin 64) (channel : Option (Fin 4)) (s : State) :
    BlocksGo s (releaseFollow g channel s) := by
  have peaks : PeaksSound s → PeaksSound (releaseFollow g channel s) := releaseFollow_peaks g channel
  rw [releaseFollow_frame] at peaks ⊢
  have interlocks : InterlocksStand s (s.setLu (releaseFollow g channel s).lu) := interlocksStand_of rfl rfl rfl
  exact ⟨⟨monitorsSound_congr rfl rfl, peaks, interlocks.latches, interlocks.matching, interlocks.tables⟩, rfl, rfl, rfl⟩

theorem releaseLight_blocksGo (g : Fin 64) (colour : Colour) (fade : BitVec 10) (s : State) :
    BlocksGo s (releaseLight g colour fade s) := by
  refine setLu_blocksGo ⟨rfl, fun h c bound => ?_⟩
  rw [groups_setGroup] at bound ⊢
  split at bound
  case isTrue same => rw [if_pos same, same]; exact ⟨bound, rfl⟩
  case isFalse other => rw [if_neg other]; exact ⟨bound, rfl⟩

theorem lightPeriod_blocksGo (s : State) : BlocksGo s (lightPeriod s) := by
  have stepped : BlocksGo s (stepFades s) := setLu_blocksGo <| followersStand_mapGroups fun _ r c bound => by
    unfold LightGroup.fadeStep at bound ⊢
    split at bound
    case isTrue done => rw [if_pos done]; exact ⟨bound, rfl⟩
    case isFalse more => rw [if_neg more]; exact ⟨bound, rfl⟩
  exact stepped.trans (setLu_blocksGo ⟨rfl, fun _ _ bound => ⟨bound, rfl⟩⟩)

end Sys2Proof.Machine
end

section
/-! Proofs: the rules of monitors, followers and interlocks at the show, its periods and its bursts. -/

namespace Sys2Proof.Machine

/-! ## Holds and entry to RUNNING -/

theorem enterRunning_blocksAside (s : State) : BlocksAside s (enterRunning s) := by
  rw [enterRunning_frame]; exact setSq_blocksAside s _

theorem primingTest_blocksAside (s : State) : BlocksAside s (primingTest s) := by
  rw [primingTest_frame]; exact setSq_blocksAside s _

theorem takeSync_blocksAside (s : State) : BlocksAside s (takeSync s) := by
  unfold takeSync; split
  · exact enterRunning_blocksAside s
  · exact BlocksAside.refl s

/-! ## Examination of the head -/

theorem examineRun_request (rs : List CueRecord) (s : State) : (examineRun rs s).fu.fetchRequest = s.fu.fetchRequest := by
  induction rs generalizing s with
  | nil => rfl
  | cons r rest ih =>
    have one : (examineRecord r rest s).state.fu.fetchRequest = s.fu.fetchRequest := by
      obtain ⟨fu, -⟩ := examineRecord_fu r rest s
      rw [fu]
    unfold examineRun
    dsimp only
    repeat' split
    · exact one
    · exact one
    · exact (ih _).trans one
    · exact (ih _).trans one

theorem examineHead_blocksAside (s : State) : BlocksAside s (examineHead s) := by
  refine (examineHead_headOnly s).blocksAside ?_
  unfold examineHead; split
  · exact examineRun_request _ s
  · rfl

theorem retryHead_blocksAside (s : State) : BlocksAside s (retryHead s) := by
  unfold retryHead; split
  · exact examineHead_blocksAside s
  · exact BlocksAside.refl s

theorem resumeRun_blocksAside (s : State) : BlocksAside s (resumeRun s) := by
  unfold resumeRun; split
  · exact (setSq_blocksAside s _).trans (examineHead_blocksAside _)
  · exact BlocksAside.refl s

theorem takeResync_blocksAside (s : State) : BlocksAside s (takeResync s) := by
  unfold takeResync; dsimp only; split
  · exact setFu_blocksAside s _
  · exact (setFu_blocksAside s _).trans (examineHead_blocksAside _)

/-! ## The advance -/

theorem deliver_blocksGo (a : Action) (s : State) : BlocksGo s (deliver a s) := by
  have beside : ∀ t : State, ShowOnly s t → t.lu = s.lu → BlocksGo s t := fun t only lu =>
    only.blocksGo (followersStand_of lu)
  have only := deliver_showOnly a s
  cases a with
  | valve v isOpen =>
    cases isOpen with
    | true => exact beside _ only rfl
    | false => exact beside _ only (by rw [deliver, wantClose_frame]; rfl)
  | pump p speed => exact beside _ only rfl
  | light g colour fade => exact releaseLight_blocksGo g colour fade s
  | follow g channel => exact releaseFollow_blocksGo g channel s
  | mark number notify => exact beside _ only (by cases notify <;> rfl)
  | endShow => exact windDown_blocksGo .normal s

theorem releaseDue_blocksGo (es : List ReleaseEntry) (s : State) : BlocksGo s (releaseDue es s).state := by
  induction es generalizing s with
  | nil => exact BlocksGo.refl s
  | cons e rest ih =>
    have delivered : BlocksGo s (deliver e.action (takeEntry e rest s)) :=
      (setSq_blocksAside s _).goes.trans (deliver_blocksGo _ _)
    unfold releaseDue
    dsimp only
    repeat' split
    · exact delivered
    · exact delivered.trans (ih _)
    · exact BlocksGo.refl s

theorem afterReleases_blocksAside (r : Released) : BlocksAside r.state (afterReleases r) := by
  have examined : BlocksAside r.state (examineAfter r) := by
    unfold examineAfter
    repeat' split
    · exact resumeRun_blocksAside _
    · exact retryHead_blocksAside _
    · exact BlocksAside.refl _
  unfold afterReleases
  repeat' split
  · exact BlocksAside.refl _
  · exact (examined.trans (setSq_blocksAside _ _)).trans (resumeRun_blocksAside _)
  · exact examined

theorem advance_blocksGo (s : State) : BlocksGo s (advance s) := by
  unfold advance; split
  · exact takeFault_blocksGo _ s
  · exact ((setSq_blocksAside s _).goes.trans (releaseDue_blocksGo _ _)).trans (afterReleases_blocksAside _).goes

theorem starveLimitTest_blocksGo (s : State) : BlocksGo s (starveLimitTest s) := by
  unfold starveLimitTest; split
  · exact takeFault_blocksGo _ s
  · exact BlocksGo.refl s

theorem takeReport_blocksGo (o : PeriodOutcome) (s : State) : BlocksGo s (takeReport o s) := by
  have resumed : BlocksGo s (setShow .running s) := (setSq_blocksAside s _).goes
  unfold takeReport
  split
  · exact advance_blocksGo s
  · exact advance_blocksGo s
  · exact resumed.trans (advance_blocksGo _)
  · exact resumed.trans (advance_blocksGo _)
  · exact BlocksAside.goes ⟨⟨rfl, rfl, rfl⟩, rfl, rfl, rfl, rfl, rfl⟩
  · exact (setSq_blocksAside s _).goes.trans (starveLimitTest_blocksGo _)
  · exact BlocksGo.refl s

/-! ## Monitors (R83, R84, R86, R87, R88) -/

theorem windowSound_of_lt {m : Monitor} (h : m.counted < m.window) : windowSound m := by
  rw [windowSound]
  split
  case isTrue off => rw [off] at h; bv_omega
  case isFalse => exact h

/-- A sample fed leaves the frames counted below the window length (R86, R87). -/
theorem Monitor.fed_windowSound {m : Monitor} (sound : windowSound m) (muted : Bool) (x : Half) :
    windowSound (m.fed muted x) := by
  have fed := Monitor.fed_eq sound muted x
  dsimp only at fed
  rw [fed]
  by_cases left : m.window = 0 ∨ muted = true
  · rw [if_pos left]; exact sound
  · have on : m.window ≠ 0 := (not_or.mp left).1
    rw [windowSound, if_neg on] at sound
    rw [if_neg left]
    by_cases ends : m.counted + 1 = m.window
    · rw [if_pos ends]
      have some : 0 < m.window := by bv_omega
      exact windowSound_of_lt some
    · rw [if_neg ends]
      have below : m.counted + 1 < m.window := by bv_omega
      exact windowSound_of_lt below

/-- A muted channel's monitor takes no sample (R83, R86). -/
theorem Monitor.fed_muted (m : Monitor) (x : Half) : m.fed true x = m := by simp [Monitor.fed]

/-- A fresh window is sound (R84). -/
theorem Monitor.fresh_windowSound (m : Monitor) : windowSound m.fresh := by
  rw [windowSound]
  split
  case isTrue => rfl
  case isFalse on =>
    have length : m.window ≠ 0 := on
    change 0 < m.window
    bv_omega

theorem feedMonitors_monitors {samples : Vector Half 4} {s : State} (sound : MonitorsSound s) :
    MonitorsSound (feedMonitors samples s) := fun c => by
  obtain ⟨window, muted⟩ := sound c
  have mute : isMuted (feedMonitors samples s) c = isMuted s c := by
    rw [isMuted, (feedMonitors_monitorsOnly samples s).au]; rfl
  rw [monitors_feedMonitors, mute]
  refine ⟨Monitor.fed_windowSound window _ _, fun silent => ?_⟩
  rw [silent, Monitor.fed_muted]; exact muted silent

/-- A monitor whose stored peak stands leaves the latest peaks. -/
theorem setMonitor_peaks {c : Fin 4} {m : Monitor} {s : State} (stored : m.storedPeak = s.au.monitors[c].storedPeak)
    (sound : PeaksSound s) : PeaksSound (setMonitor c m s) := by
  obtain ⟨latest, scales⟩ := sound
  refine ⟨fun d => ?_, scales⟩
  rw [lu_setMonitor, monitors_setMonitor, latest]
  split
  case isTrue same => rw [stored, same]
  case isFalse => rfl

/-- A stored peak handed to the light unit is the latest, and every follower's scale (R87, R143). -/
theorem takePeak_peaks {c : Fin 4} {m : Monitor} {s : State} (sound : PeaksSound s) :
    PeaksSound (takePeak c m.storedPeak (setMonitor c m s)) := by
  obtain ⟨latest, scales⟩ := sound
  refine ⟨fun d => ?_, fun g d bound => ?_⟩
  · rw [latestPeak_takePeak, monitors_takePeak, monitors_setMonitor, lu_setMonitor, latest]
    split <;> rfl
  · rw [groups_takePeak, lu_setMonitor, LightGroup.takePeak] at bound ⊢
    rw [latestPeak_takePeak, lu_setMonitor]
    split at bound
    case isTrue own =>
      have same : c = d := Option.some.inj (own.symm.trans bound)
      rw [if_pos own, if_pos same]
    case isFalse other =>
      have different : c ≠ d := fun same => other (same ▸ bound)
      rw [if_neg other, if_neg different]; exact scales g d bound

theorem endWindow_peaks (c : Fin 4) {s : State} (sound : PeaksSound s) : PeaksSound (endWindow c s) := by
  unfold endWindow; dsimp only; split
  · exact takePeak_peaks (m := s.au.monitors[c].ended) sound
  · exact sound

theorem feedMonitor_peaks (samples : Vector Half 4) (c : Fin 4) {s : State} (sound : PeaksSound s) :
    PeaksSound (feedMonitor samples c s) := by
  unfold feedMonitor; dsimp only; split
  · exact endWindow_peaks c (setMonitor_peaks rfl sound)
  · exact sound

/-- Monitors and followers move by their own rules, and everything else stands. -/
theorem MusicOnly.blocksGo {s t : State} (h : MusicOnly s t) (monitors : MonitorsSound s → MonitorsSound t)
    (peaks : PeaksSound s → PeaksSound t) : BlocksGo s t := by
  have interlocks := interlocksStand_of h.gu h.ls h.inReset
  exact ⟨⟨monitors, peaks, interlocks.latches, interlocks.matching, interlocks.tables⟩, h.inReset, by rw [h.fu], by rw [h.pu]⟩

/-- What each channel's sample keeps, all four keep. -/
theorem feedMonitors_keeps {P : State → Prop} (samples : Vector Half 4)
    (keeps : ∀ (c : Fin 4) (t : State), P t → P (feedMonitor samples c t)) {s : State} (sound : P s) :
    P (feedMonitors samples s) :=
  keeps 3 _ (keeps 2 _ (keeps 1 _ (keeps 0 _ sound)))

theorem feedMonitors_peaks (samples : Vector Half 4) (s : State) :
    PeaksSound s → PeaksSound (feedMonitors samples s) :=
  feedMonitors_keeps (P := PeaksSound) samples fun c _ => feedMonitor_peaks samples c

theorem feedMonitors_blocksGo (samples : Vector Half 4) (s : State) : BlocksGo s (feedMonitors samples s) :=
  (feedMonitors_musicOnly samples s).blocksGo feedMonitors_monitors (feedMonitors_peaks samples s)

/-- Between events no window is complete, and its row ends none (R87). -/
theorem endWindow_blocksGo (c : Fin 4) (s : State) : BlocksGo s (endWindow c s) :=
  (endWindow_musicOnly c s).blocksGo
    (fun sound => by rw [endWindow_incomplete (complete_of_windowSound (sound c).1)]; exact sound) (endWindow_peaks c)

/-- MONITOR begins a fresh window, and keeps the stored results (R84). -/
theorem takeMonitor_blocksGo (s : State) : BlocksGo s (takeMonitor s) := by
  unfold takeMonitor
  dsimp only
  refine (setMonitor_monitorsOnly _ _ s).toMusicOnly.blocksGo (fun sound d => ?_) (setMonitor_peaks rfl)
  rw [monitors_setMonitor]
  split
  case isTrue same =>
    obtain ⟨-, muted⟩ := sound (Fin.ofNat 4 s.ru.arg0.toNat)
    refine ⟨Monitor.fresh_windowSound { s.au.monitors[Fin.ofNat 4 s.ru.arg0.toNat] with
      window := BitVec.ofNat 16 s.ru.arg1.toNat }, fun silent => ?_⟩
    obtain ⟨-, -, -, peak, count⟩ := muted (same ▸ silent)
    exact ⟨rfl, rfl, rfl, peak, count⟩
  case isFalse => exact sound d

theorem remuted_sound {old new : BitVec 4} {c : Fin 4} {m : Monitor}
    (sound : windowSound m ∧ (old.getLsbD c = true → mutedSound m)) :
    windowSound (m.remuted old new c) ∧ (new.getLsbD c = true → mutedSound (m.remuted old new c)) := by
  obtain ⟨window, muted⟩ := sound
  have fresh := m.fresh_windowSound
  unfold Monitor.remuted newlyMuted
  cases before : old.getLsbD c <;> cases after : new.getLsbD c
  · exact ⟨window, fun silent => by cases silent⟩
  · exact ⟨fresh, fun _ => ⟨rfl, rfl, rfl, rfl, rfl⟩⟩
  · exact ⟨fresh, fun silent => by cases silent⟩
  · exact ⟨window, fun _ => muted before⟩

theorem takeMute_monitors (new : BitVec 4) {s : State} (sound : MonitorsSound s) : MonitorsSound (takeMute new s) := fun c => by
  have mute : isMuted (takeMute new s) c = new.getLsbD c := by rw [isMuted, au_takeMute]
  rw [(channel_takeMute new s c).1, mute]
  exact remuted_sound (sound c)

/-- A newly muted channel has peak 0 at its monitor, at the light unit and at its followers (R83, R143). -/
theorem takeMute_peaks (new : BitVec 4) {s : State} (sound : PeaksSound s) : PeaksSound (takeMute new s) := by
  obtain ⟨latest, scales⟩ := sound
  refine ⟨fun c => ?_, fun g c bound => ?_⟩
  · obtain ⟨monitor, peak⟩ := channel_takeMute new s c
    rw [monitor, peak, Monitor.remuted, latest]
    repeat' split
    all_goals rfl
  · rw [(channel_takeMute new s c).2]
    rw [groups_takeMute] at bound ⊢
    have before : s.lu.groups[g].follow = some c := bound
    simp only [before]
    split
    · rfl
    · exact scales g c before

theorem takeMute_blocksGo (new : BitVec 4) (s : State) : BlocksGo s (takeMute new s) :=
  (takeMute_musicOnly new s).blocksGo (takeMute_monitors new) (takeMute_peaks new)

/-! ## START (R88) -/

/-- START begins fresh windows, and keeps the stored results (R88). -/
theorem startShow_blocksGo (s : State) : BlocksGo s (startShow s) := by
  have monitors : ∀ rate, (s.au.begin rate).monitors = tabulate (monitorAtStart s.au) := fun _ => rfl
  have started : ∀ (x : Sequencer) (rate : Rate), BlocksGo s ((s.setSq x).setAu (s.au.begin rate)) := fun x rate => by
    have interlocks : InterlocksStand s ((s.setSq x).setAu (s.au.begin rate)) := interlocksStand_of rfl rfl rfl
    refine ⟨⟨fun sound c => ?_, fun sound => ⟨fun c => ?_, sound.2⟩, interlocks.latches, interlocks.matching,
      interlocks.tables⟩, rfl, rfl, rfl⟩
    · obtain ⟨window, muted⟩ := sound c
      rw [au_setAu, monitors, getFin_tabulate, monitorAtStart]
      split
      case isTrue begun =>
        refine ⟨Monitor.fresh_windowSound _, fun silent => ?_⟩
        change s.au.muteSet.getLsbD c = true at silent
        rw [silent, Bool.not_true, Bool.and_false] at begun
        cases begun
      case isFalse => exact ⟨window, muted⟩
    · rw [au_setAu, monitors, getFin_tabulate, monitorAtStart]
      split <;> exact sound.1 c
  unfold startShow
  exact (started _ _).trans (primingTest_blocksAside _).goes

/-! ## The frame period -/

theorem playPeriod_blocksGo (s : State) : BlocksGo s (playPeriod s) := by
  by_cases clock : s.au.clock.isSome = true
  · rw [playPeriod_runs clock]
    have taken : BlocksAside s (takeFrame s) := by
      unfold takeFrame; split <;> exact ⟨⟨rfl, rfl, rfl⟩, rfl, rfl, rfl, rfl, rfl⟩
    have shifted : ∀ x t, BlocksAside t (shiftOut x t) := fun _ _ => ⟨⟨rfl, rfl, rfl⟩, rfl, rfl, rfl, rfl, rfl⟩
    exact ((taken.goes.trans (takeReport_blocksGo _ _)).trans (shifted _ _).goes).trans (feedMonitors_blocksGo _ _)
  · rw [playPeriod_stopped (by simpa using clock)]; exact BlocksGo.refl s

theorem resumePeriod_blocksGo (s : State) : BlocksGo s (resumePeriod s) := by
  unfold resumePeriod; split
  · exact playPeriod_blocksGo s
  · exact BlocksGo.refl s

/-! ## Field and colour periods -/

theorem winddownTest_blocksAside (s : State) : BlocksAside s (winddownTest s) := by
  unfold winddownTest; split
  · exact ⟨⟨rfl, rfl, rfl⟩, rfl, rfl, rfl, rfl, rfl⟩
  · exact BlocksAside.refl s

theorem takeFieldPeriod_blocksAside (s : State) : BlocksAside s (takeFieldPeriod s) :=
  (setWu_blocksAside s (waterPeriod s).wu).trans (winddownTest_blocksAside (waterPeriod s))

theorem takeColourPeriod_blocksGo (s : State) : BlocksGo s (takeColourPeriod s) :=
  ((lightPeriod_blocksGo s).trans (setSq_blocksAside _ _).goes).trans (winddownTest_blocksAside (colourStep s)).goes

theorem deferredClosePeriod_blocksAside (v : Fin 192) (s : State) : BlocksAside s (deferredClosePeriod v s) := by
  unfold deferredClosePeriod; split
  · exact takeFieldPeriod_blocksAside s
  · exact BlocksAside.refl s

theorem winddownPeriod_blocksGo (s : State) : BlocksGo s (winddownPeriod s) := by
  unfold winddownPeriod
  repeat' split
  · exact (takeFieldPeriod_blocksAside s).goes
  · exact takeColourPeriod_blocksGo s
  · exact BlocksGo.refl s

/-! ## Bursts -/

theorem recordTaken_blocksAside (slot : Fin Config.cueSlots) (s : State) : BlocksAside s (recordTaken slot s) :=
  ⟨⟨rfl, rfl, rfl⟩, rfl, rfl, rfl, rfl, rfl⟩

theorem framesTaken_blocksAside (slot : Fin Config.audioSlots) (two : Bool) (s : State) :
    BlocksAside s (framesTaken slot two s) := ⟨⟨rfl, rfl, rfl⟩, rfl, rfl, rfl, rfl, rfl⟩

theorem endBurst_blocksAside (s : State) : BlocksAside s (endBurst s) := by
  unfold endBurst
  split
  case h_1 b _ =>
    match b with
    | { kind := k, void := true } => exact setPu_blocksAside s _
    | { kind := .cue slot, void := false } =>
      rw [completeBurst_cue]
      split
      · exact (recordTaken_blocksAside slot s).trans (examineHead_blocksAside _)
      · exact recordTaken_blocksAside slot s
    | { kind := .audio slot two, void := false } =>
      rw [completeBurst_audio]
      exact (framesTaken_blocksAside slot two s).trans (primingTest_blocksAside _)
  all_goals exact BlocksAside.refl s

end Sys2Proof.Machine
end

section
/-! Proofs: the rules of monitors, followers and interlocks at the evaluations of the guard unit and the operations of the
limit store. -/

namespace Sys2Proof.Machine

/-! ## Evaluations (R117, R123) -/

/-- The pattern of an entry looks at the limit store and the debounced levels only. -/
theorem entryHolds_congr {s t : State} (ls : t.ls = s.ls) (debounced : t.gu.debounced = s.gu.debounced)
    (edge : Option (Fin 16 × Bool)) (e : Nat) : entryHolds t edge e = entryHolds s edge e := by
  rw [entryHolds, ls, debounced]; rfl

theorem latchingSet_congr {s t : State} (ls : t.ls = s.ls) : latchingSet t = latchingSet s := by
  rw [latchingSet, ls]; rfl

section
variable {matched latched moved : Byte} {s r : State}

/-- An evaluation leaves RESET_N, the fetch request and the wait count. -/
theorem takeSets_counts (matched latched moved : Byte) (r : State) : CountsStand r (takeSets matched latched moved r) := by
  obtain ⟨fu, -, -, -, pu, -, -, -, inReset⟩ := takeSets_showOnly matched latched moved r
  exact ⟨inReset, by rw [fu]; rfl, by rw [pu]; rfl⟩

/-- The rules after an evaluation are those of the sets it takes. -/
theorem takeSets_rulesGo (au : r.au = s.au) (lu : r.lu = s.lu)
    (latches : LatchesSound s → latched = matched &&& latchingSet r)
    (matching : MatchesSound s → r.inReset = false → ∀ e : Fin 8, r.ls.table.latching e = false →
      matched.getLsbD e = entryHolds r none e)
    (tables : TableStateSound s → TableStateSound r) : RulesGo s (takeSets matched latched moved r) := by
  have only := takeSets_showOnly matched latched moved r
  have music : (takeSets matched latched moved r).au = s.au := only.au.trans au
  have gu := takeSets_gu matched latched moved r
  have store : (takeSets matched latched moved r).ls = r.ls := only.ls
  have followers := (followersStand_of lu).trans (takeSets_followers matched latched moved r)
  refine ⟨monitorsSound_congr (by rw [music]) (by rw [music]), followers.peaks (by rw [music]), fun sound => ?_,
    fun sound out e plain => ?_, fun sound out => ?_⟩
  · rw [LatchesSound, gu, latchingSet_congr store]; exact latches sound
  · rw [store] at plain
    rw [entryHolds_congr store (by rw [gu]), gu]
    exact matching sound (only.inReset ▸ out) e plain
  · rw [store]; exact tables sound (only.inReset ▸ out)

/-- The levels evaluation makes the rules of the sets hold, whatever they were (R124). -/
theorem evaluateLevels_rulesGo (au : r.au = s.au) (lu : r.lu = s.lu) (tables : TableStateSound r) :
    RulesGo s (evaluateLevels r) :=
  takeSets_rulesGo au lu (fun _ => rfl) (fun _ _ e _ => getLsbD_holdingSet r none e) fun _ => tables

end

theorem BlocksGo.of {s r t : State} (rules : RulesGo s t) (before : CountsStand s r) (after : CountsStand r t) : BlocksGo s t :=
  ⟨rules, after.inReset.trans before.inReset, after.request.trans before.request, after.waitCount.trans before.waitCount⟩

/-- Entries released leave both sets; an entry that is not latching is released only if its pattern does not hold (R125). -/
theorem unlatch_blocksGo (s : State) : BlocksGo s (unlatch s) := by
  refine BlocksGo.of (r := s) (takeSets_rulesGo rfl rfl (fun sound => ?_) (fun sound out e plain => ?_) id) ⟨rfl, rfl, rfl⟩
    (takeSets_counts _ _ _ _)
  · have latched : s.gu.latched = s.gu.matched &&& latchingSet s := sound
    change s.gu.latched &&& ~~~ released s = s.gu.matched &&& ~~~ released s &&& latchingSet s
    rw [latched, BitVec.and_assoc, BitVec.and_assoc, BitVec.and_comm (latchingSet s)]
  · have holds := sound out e plain
    have gone := getLsbD_released s e
    change (s.gu.matched &&& ~~~ released s).getLsbD e = _
    rw [getLsbD_without, gone, holds]
    cases entryHolds s none e <;> simp

theorem leaveTripped_blocksAside (s : State) : BlocksAside s (leaveTripped s) := by
  rw [leaveTripped_eq]; exact setSq_blocksAside s _

theorem takeRelease_blocksGo (s : State) : BlocksGo s (takeRelease s) :=
  (unlatch_blocksGo s).trans (leaveTripped_blocksAside _).goes

/-! ## Edge events (R119 to R123) -/

/-- Without an edge spec a spec holds at an edge exactly as without one. -/
theorem LimitTable.inputHolds_plain {x : LimitTable} {e : Nat} (plain : x.latching e = false) (levels : Half)
    (edge : Option (Fin 16 × Bool)) (i : Fin 16) : x.inputHolds e levels edge i = x.inputHolds e levels none i := by
  have noEdge : ¬ (x.spec e i = 3 ∨ x.spec e i = 4 ∨ x.spec e i = 5) := fun spec =>
    Bool.false_ne_true (plain.symm.trans ((x.latching_iff e).mpr (.inr ⟨i, spec⟩)))
  obtain ⟨noRise, noFall, noChange⟩ := not_or.mp noEdge |>.imp id not_or.mp
  rw [Bool.eq_iff_iff, inputHolds_iff, inputHolds_iff]
  simp only [noRise, noFall, noChange, or_self, false_and, or_false]

/-- The pattern of an entry that is not latching holds at an edge exactly as without one (R121). -/
theorem LimitTable.patternHolds_plain {x : LimitTable} {e : Nat} (plain : x.latching e = false) (levels : Half)
    (edge : Option (Fin 16 × Bool)) : x.patternHolds e levels edge = x.patternHolds e levels none := by
  rw [Bool.eq_iff_iff]
  by_cases mode : x.entryMode e = 0
  · simp only [patternHolds_all mode, inputHolds_plain plain levels edge]
  · simp only [patternHolds_any mode, inputHolds_plain plain levels edge]

/-- At an edge latched entries stay, and an entry that is not latching is matched by its levels (R123). -/
theorem edgeEvaluated_blocksGo (i : Fin 16) (s : State) : BlocksGo s (edgeEvaluated i s) := by
  refine BlocksGo.of (r := edgeTaken i s) (takeSets_rulesGo rfl rfl (fun sound => ?_) (fun _ _ e plain => ?_) id)
    ⟨rfl, rfl, rfl⟩ (takeSets_counts _ _ _ _)
  · have latched : s.gu.latched = s.gu.matched &&& latchingSet s := sound
    have same : latchingSet (edgeTaken i s) = latchingSet s := rfl
    rw [latched, same, edgeMoved]
    generalize edgeHolding i s = holding
    ext j _
    simp only [BitVec.getElem_or, BitVec.getElem_and, BitVec.getElem_not]
    cases s.gu.matched[j] <;> cases holding[j] <;> simp
  · have latching : (latchingSet s).getLsbD e = false := (getLsbD_latchingSet s e).trans plain
    have pattern : entryHolds (edgeTaken i s) (some (i, s.gu.raw.getLsbD i)) e = entryHolds (edgeTaken i s) none e := by
      rw [entryHolds, LimitTable.patternHolds_plain plain, entryHolds]
    rw [BitVec.getLsbD_or, BitVec.getLsbD_and, latching, Bool.and_false, Bool.or_false, edgeHolding, getLsbD_holdingSet,
      pattern]

theorem timerExpires_blocksGo (i : Fin 16) (s : State) : BlocksGo s (timerExpires i s) := by
  by_cases running : s.gu.timers[i] = none
  · rw [timerExpires, if_neg (by rw [running]; decide)]; exact BlocksGo.refl s
  · by_cases same : s.gu.raw.getLsbD i = s.gu.debounced.getLsbD i
    · rw [timerExpires, if_pos (Option.isSome_iff_ne_none.mpr running), expireDebounce]
      dsimp only
      rw [if_pos same]
      exact setGu_blocksGo rfl rfl rfl
    · rw [timerExpires_edge running same]; exact edgeEvaluated_blocksGo i s

theorem changeLevel_blocksGo (i : Fin 16) (high : Bool) (s : State) : BlocksGo s (changeLevel i high s) := by
  unfold changeLevel; split
  · exact BlocksGo.refl s
  · exact setGu_blocksGo rfl rfl rfl

/-! ## Wind -/

theorem countPulse_blocksGo (s : State) : BlocksGo s (countPulse s) := setGu_blocksGo rfl rfl rfl

theorem gateExpires_blocksGo (s : State) : BlocksGo s (gateExpires s) := by
  have raised : ∀ t, BlocksGo t (raise .wind t) := fun t => (setRu_blocksAside t _).goes
  unfold gateExpires expireGate
  dsimp only
  repeat' split
  · exact setGu_blocksGo rfl rfl rfl
  · refine BlocksGo.trans ?_ (raised _)
    exact setGu_blocksGo rfl rfl rfl
  · exact BlocksGo.refl s

/-! ## The limit store (R157 to R162) -/

theorem captureStaging_blocksGo (i : Fin 16) (value : Word) (s : State) : BlocksGo s (captureStaging i value s) := by
  unfold captureStaging; split
  · exact BlocksGo.refl s
  · exact setLs_blocksGo rfl rfl

theorem takeLimitCommand_blocksGo (w : Word) (progEn : Bool) (s : State) : BlocksGo s (takeLimitCommand w progEn s) := by
  have kept : ∀ c : LimitCommandKind, (s.ls.accept c).table = s.ls.table ∧ (s.ls.accept c).tableState = s.ls.tableState :=
    fun c => by cases c <;> exact ⟨rfl, rfl⟩
  have stored : (limitStoreAfter w progEn s).table = s.ls.table ∧
      (limitStoreAfter w progEn s).tableState = s.ls.tableState := by
    unfold limitStoreAfter
    dsimp only
    repeat' split
    · exact kept _
    all_goals exact ⟨rfl, rfl⟩
  exact setLs_blocksGo stored.1 stored.2

/-- A completion recomputes the table state and evaluates the levels, whatever its own steps left of the table (R162). -/
theorem finishOperation_blocksGo (name : OpName) (result : CompletionResult) (x : LimitStore) (s : State) :
    BlocksGo s (finishOperation name result (s.setLs x)) := by
  rw [finishOperation_eq]
  exact BlocksGo.of (r := raise .limit (s.setLs (x.finished name result)))
    (evaluateLevels_rulesGo rfl rfl fun _ => rfl) ⟨rfl, rfl, rfl⟩ (takeSets_counts _ _ _ _)

theorem completeProgramRow_blocksGo (holds : Bool) (s : State) : BlocksGo s (completeProgramRow holds s) := by
  unfold completeProgramRow
  repeat' split
  · exact finishOperation_blocksGo _ _ _ s
  all_goals exact BlocksGo.refl s

theorem completeSetLock_blocksGo (s : State) : BlocksGo s (completeSetLock s) := by
  unfold completeSetLock; split
  · exact finishOperation_blocksGo _ _ _ s
  · exact BlocksGo.refl s

theorem completeEraseAll_blocksGo (s : State) : BlocksGo s (completeEraseAll s) := by
  unfold completeEraseAll; split
  · exact finishOperation_blocksGo _ _ _ s
  · exact BlocksGo.refl s

end Sys2Proof.Machine
end

section
/-! Proofs: the rules of monitors, followers and interlocks at the captures of written words. -/

namespace Sys2Proof.Machine

/-! ## Show commands -/

theorem takeHold_blocksAside (s : State) : BlocksAside s (takeHold s) := by
  unfold takeHold; split <;> exact setSq_blocksAside s _

theorem takeProceed_blocksAside (s : State) : BlocksAside s (takeProceed s) := by
  unfold takeProceed; dsimp only; split
  · exact setSq_blocksAside s _
  · exact (setSq_blocksAside s _).trans (enterRunning_blocksAside _)

/-- AMBIENT unbinds every group (R149). -/
theorem takeAmbient_blocksGo (s : State) : BlocksGo s (takeAmbient s) :=
  setLu_blocksGo <| followersStand_mapGroups fun _ _ _ bound => LightGroup.unbind_follow bound

theorem ShowCommand.act_blocksGo (c : ShowCommand) (s : State) : BlocksGo s (c.act s) := by
  cases c
  case start => exact startShow_blocksGo s
  case stop => exact windDown_blocksGo .normal s
  case hold => exact (takeHold_blocksAside s).goes
  case step => exact ((setSq_blocksAside s _).trans (enterRunning_blocksAside _)).goes
  case proceed => exact (takeProceed_blocksAside s).goes
  case ringReset => exact BlocksAside.goes ⟨⟨rfl, rfl, rfl⟩, rfl, rfl, rfl, rfl, rfl⟩
  case ambient => exact takeAmbient_blocksGo s
  case cueResync => exact (takeResync_blocksAside s).goes
  case releaseInterlocks => exact takeRelease_blocksGo s
  case mute => exact takeMute_blocksGo _ s
  case monitor => exact takeMonitor_blocksGo s
  case spaceTriggers => exact (setFu_blocksAside s _).goes
  case clearCounts => exact BlocksAside.goes ⟨⟨rfl, rfl, rfl⟩, rfl, rfl, rfl, rfl, rfl⟩

theorem takeShowCommand_blocksGo (code : Word) (s : State) : BlocksGo s (takeShowCommand code s) := by
  have recorded : ∀ outcome t, BlocksGo t (recordResult code outcome t) := fun _ t => (setRu_blocksAside t _).goes
  unfold takeShowCommand takeCommand
  split
  · split
    · exact (ShowCommand.act_blocksGo _ s).trans (recorded _ _)
    · exact recorded _ s
  · exact recorded _ s

/-! ## Words of the command page and of the staging buffer (R171) -/

theorem takeArg_blocksAside (i : Fin 3) (value : Word) (s : State) : BlocksAside s (takeArg i value s) := by
  unfold takeArg; split <;> exact setRu_blocksAside s _

theorem markFault_blocksAside (s : State) : BlocksAside s (markFault s) :=
  (setFu_blocksAside s _).trans (setRu_blocksAside _ _)

theorem writeCueMark_blocksAside (value : Word) (s : State) : BlocksAside s (writeCueMark value s) := by
  unfold writeCueMark; split
  · exact setFu_blocksAside s _
  · exact markFault_blocksAside s

theorem writeAudioMark_blocksAside (value : Word) (s : State) : BlocksAside s (writeAudioMark value s) := by
  unfold writeAudioMark; split
  · exact (setFu_blocksAside s _).trans (primingTest_blocksAside _)
  · exact markFault_blocksAside s

theorem captureFull_blocksGo (offset : Nat) (value : Word) (progEn : Bool) (s : State) :
    BlocksGo s (captureFull offset value progEn s) := by
  unfold captureFull
  repeat' split
  · exact takeShowCommand_blocksGo value s
  · exact (takeArg_blocksAside 0 value s).goes
  · exact (takeArg_blocksAside 1 value s).goes
  · exact (takeArg_blocksAside 2 value s).goes
  · exact (writeCueMark_blocksAside value s).goes
  · exact (writeAudioMark_blocksAside value s).goes
  · exact takeLimitCommand_blocksGo value progEn s
  · exact (setRu_blocksAside s _).goes
  · exact (setRu_blocksAside s _).goes
  · exact captureStaging_blocksGo _ value s
  · exact BlocksGo.refl s

theorem captureWord_blocksGo (w : BusWrite) (progEn : Bool) (s : State) : BlocksGo s (captureWord w progEn s) := by
  unfold captureWord
  repeat' split
  · exact captureFull_blocksGo _ _ _ s
  · exact (setRu_blocksAside s _).goes
  · exact BlocksGo.refl s
  · exact BlocksGo.refl s

/-! ## Written words (R168, R172) -/

theorem pushWord_blocksAside (w : BusWrite) (refused : Bool) (s : State) : BlocksAside s (pushWord w refused s) := by
  rw [pushWord_frame]; exact setPu_blocksAside s _ (by rw [pushWord_kept])

theorem refuseWord_blocksAside (w : BusWrite) (s : State) : BlocksAside s (refuseWord w s) := by
  have counted : BlocksAside s (raise .refused (s.setPu (s.pu.countRefused w))) :=
    (setPu_blocksAside s _).trans (setRu_blocksAside _ _)
  exact counted.trans (pushWord_blocksAside w true _)

theorem decideWord_blocksGo (w : BusWrite) (progEn : Bool) (s : State) : BlocksGo s (decideWord w progEn s) := by
  unfold decideWord
  repeat' split
  · exact (pushWord_blocksAside w false s).goes
  · exact (refuseWord_blocksAside w s).goes
  · exact (captureWord_blocksGo w progEn s).trans (pushWord_blocksAside w false _).goes

/-! ## Reads and the end of a transaction -/

theorem presentRead_blocksAside (r : BusRead) (s : State) : BlocksAside s (presentRead r s) := by
  unfold presentRead
  split
  · rw [answerRead_frame]; exact (setPu_blocksAside s _).trans (setRu_blocksAside _ _)
  · exact setPu_blocksAside s _

theorem endTransaction_blocksAside (s : State) : BlocksAside s (endTransaction s) := by
  unfold endTransaction; split
  · exact setPu_blocksAside s _
  all_goals exact BlocksAside.refl s

end Sys2Proof.Machine
end

section
/-! Proofs: every command keeps the rules of the blocks: what its operation does (`exec_blocks`), and what the end of every
command brings up to the state it left. -/

namespace Sys2Proof.Machine

/-! ## The wait count and the reset values (R174, R175) -/

/-- The rules of the wait count and of the reset values pass from one state to another. -/
structure CountsStay (s t : State) : Prop where
  waits : WaitSound s → WaitSound t
  resets : ResetSound s → ResetSound t

theorem CountsStay.trans {s t u : State} (h : CountsStay s t) (k : CountsStay t u) : CountsStay s u :=
  ⟨k.waits ∘ h.waits, k.resets ∘ h.resets⟩

/-- Where request and wait count stand, so does the rule of the wait count. -/
theorem countsStay_of {s t : State} (request : t.fu.fetchRequest = s.fu.fetchRequest)
    (waitCount : t.pu.waitCount = s.pu.waitCount) (resets : ResetSound s → ResetSound t) : CountsStay s t :=
  ⟨fun sound none => waitCount.trans (sound (request.symm.trans none)), resets⟩

theorem resetSound_released {t : State} (out : t.inReset = false) : ResetSound t := fun asserted => by
  rw [out] at asserted; cases asserted

/-- While the fetch request stands, no wait count is wrong, and RESET_N is not asserted. -/
theorem countsStay_of_request {s t : State} (fu : t.fu = s.fu) (inReset : t.inReset = s.inReset)
    (request : s.fu.fetchRequest = true) : CountsStay s t := by
  refine ⟨fun _ none => ?_, fun sound asserted => ?_⟩
  · rw [fu, request] at none; cases none
  · obtain ⟨-, reset, -⟩ := sound (inReset ▸ asserted)
    rw [reset] at request; cases request

/-- The words and transactions of the processor are carried through while RESET_N is asserted (R175). -/
theorem resetSound_setPu {s : State} {x : PathUnit} (refusedCount : x.refusedCount = s.pu.refusedCount)
    (lastRefused : x.lastRefused = s.pu.lastRefused) (waitCount : x.waitCount = s.pu.waitCount)
    (carried : x.carried = true → s.pu.carried = true)
    (fetching : s.pu.port.fetching = false → x.port.fetching = false) (sound : ResetSound s) : ResetSound (s.setPu x) := by
  intro asserted
  obtain ⟨sq, fu, au, wu, lu, ru, gu, operation, count, last, waits, carries, port⟩ := sound asserted
  have free : x.carried = false := by
    by_contra some
    have before := carried (by simpa using some)
    rw [carries] at before; cases before
  exact ⟨sq, fu, au, wu, lu, ru, gu, operation, refusedCount.trans count, lastRefused.trans last, waitCount.trans waits, free,
    fetching port⟩

/-- A word written while RESET_N is asserted is forwarded (R175). -/
theorem decideWord_resetSound (w : BusWrite) (progEn : Bool) {s : State} (sound : ResetSound s) :
    ResetSound (decideWord w progEn s) := by
  cases asserted : s.inReset with
  | false => exact resetSound_released ((decideWord_blocksGo w progEn s).inReset.trans asserted)
  | true =>
    rw [decideWord_forwards (.inl asserted)]
    have carried := fun carries => (carried_pushWord (w := w) (refused := false) (s := s) carries).1
    rw [pushWord_frame]
    refine resetSound_setPu ?_ ?_ ?_ carried ?_ sound
    all_goals rw [pushWord_kept]
    exact id

/-- A read presented while RESET_N is asserted is forwarded (R175). -/
theorem presentRead_resetSound (r : BusRead) {s : State} (sound : ResetSound s) : ResetSound (presentRead r s) := by
  cases asserted : s.inReset with
  | false => exact resetSound_released ((presentRead_blocksAside r s).inReset.trans asserted)
  | true =>
    rw [presentRead_forwarded (by rw [answeredWord, if_pos asserted])]
    exact resetSound_setPu rfl rfl rfl id id sound

theorem endTransaction_resetSound {s : State} (sound : ResetSound s) : ResetSound (endTransaction s) := by
  unfold endTransaction; split
  · exact resetSound_setPu rfl rfl rfl id (fun _ => rfl) sound
  all_goals exact sound

/-! ## Grants (R173, R174) -/

theorem Granted.rulesGo {s t : State} (h : Granted s t) : RulesGo s t := by
  cases h with
  | none => exact RulesGo.refl s
  | fetch | processor => exact rulesGo_of rfl rfl (FollowersStand.refl s.lu) (interlocksStand_of rfl rfl rfl)

/-- A grant made while the fetch request stands. -/
theorem Granted.countsStay {s t : State} (h : Granted s t) (request : s.fu.fetchRequest = true) : CountsStay s t :=
  countsStay_of_request (by cases h <;> rfl) (by cases h <;> rfl) request

/-- The processor's transaction granted, with the wait count as it was. -/
theorem grantWaiting_countsStay (s : State) : CountsStay s (grantWaiting s.pu.waitCount s) := by
  unfold grantWaiting; split
  · exact ⟨id, id⟩
  · next x rest _ =>
    exact countsStay_of rfl rfl fun sound => resetSound_setPu (s := s)
      (x := { s.pu with port := .processor x, waiting := rest }) rfl rfl rfl id (fun _ => rfl) sound

/-- A claim of the fetch unit that stands is a request that stands, and the processor's alone leaves the wait count. -/
theorem grantClaim_countsStay (first : Bool) {claim : Claim} {s : State} (stands : claimStands s claim = true) :
    CountsStay s (grantClaim first claim s) := by
  cases claim with
  | processor => exact grantWaiting_countsStay s
  | fetch => exact (grantFetch_granted s).countsStay stands
  | both | together =>
    rw [claimStands, Bool.and_eq_true] at stands
    simp only [grantClaim]
    split
    · exact (grantFetch_granted s).countsStay stands.2
    · exact (grantWaiting_granted _ s).countsStay stands.2

theorem grantPort_countsStay (first : Bool) {s : State} (due : dueStands s = true) : CountsStay s (grantPort first s) := by
  unfold grantPort
  split
  case h_1 claim _ arbiter => exact grantClaim_countsStay first (by rw [dueStands, arbiter] at due; exact due)
  all_goals exact ⟨id, id⟩

/-! ## Every command -/

/-- An operation that keeps the rules; those of the counts if a grant that is due is due to those still waiting. -/
structure BlocksKept (s t : State) : Prop where
  rules : RulesGo s t
  counts : dueStands s = true → CountsStay s t

theorem BlocksGo.kept {s t : State} (h : BlocksGo s t) (resets : ResetSound s → ResetSound t) : BlocksKept s t :=
  ⟨h.toRulesGo, fun _ => countsStay_of h.request h.waitCount resets⟩

/-- An event that no block takes while RESET_N is asserted. -/
theorem outOfReset_kept {f : State → State} {s : State} (h : BlocksGo s (f s)) : BlocksKept s (outOfReset f s) := by
  unfold outOfReset; split
  case isTrue => exact (BlocksGo.refl s).kept id
  case isFalse released => exact h.kept fun _ => resetSound_released (h.inReset.trans (by simpa using released))

theorem decideWord_kept (w : BusWrite) (progEn : Bool) (s : State) : BlocksKept s (decideWord w progEn s) :=
  (decideWord_blocksGo w progEn s).kept (decideWord_resetSound w progEn)

theorem presentRead_kept (r : BusRead) (s : State) : BlocksKept s (presentRead r s) :=
  (presentRead_blocksAside r s).goes.kept (presentRead_resetSound r)

theorem endTransaction_kept (s : State) : BlocksKept s (endTransaction s) :=
  (endTransaction_blocksAside s).goes.kept endTransaction_resetSound

theorem grantPort_kept (first : Bool) (s : State) : BlocksKept s (grantPort first s) :=
  ⟨(grantPort_granted first s).rulesGo, grantPort_countsStay first⟩

/-- A read that arrives is found by the arbiter before the grant, which is then due to those waiting (R173). -/
theorem arrived_kept (r : BusRead) (first : Bool) (s : State) :
    BlocksKept s (grantPort first (settleArbiter (presentRead r s))) := by
  have read := presentRead_kept r s
  have found : BlocksGo (presentRead r s) (settleArbiter (presentRead r s)) := (setPu_blocksAside _ _).goes
  have granted := grantPort_kept first (settleArbiter (presentRead r s))
  refine ⟨(read.rules.trans found.toRulesGo).trans granted.rules, fun due => ?_⟩
  have counts : CountsStay (presentRead r s) (settleArbiter (presentRead r s)) :=
    countsStay_of found.request found.waitCount (resetSound_setPu rfl rfl rfl id id)
  exact ((read.counts due).trans counts).trans (granted.counts (dueStands_settleArbiter _))

/-- The assertion of RESET_N leaves the blocks at their reset values, where the rules hold (R175). -/
theorem assertReset_kept (s : State) : BlocksKept s (assertReset s) := by
  obtain ⟨-, -, -, -, -, -, -, -, monitors, peaks, -⟩ := invariantsHoldAtReset
  have asserted {P : Prop} (out : (assertReset s).inReset = false) : P := by cases out
  have port : s.pu.port.atAssert.fetching = false := by cases s.pu.port <;> rfl
  exact ⟨⟨fun _ => monitors, fun _ => peaks, fun _ => BitVec.zero_and.symm, fun _ out => asserted out,
    fun _ out => asserted out⟩, fun _ => ⟨fun _ _ => rfl,
    fun _ _ => ⟨rfl, rfl, rfl, rfl, rfl, rfl, rfl, rfl, rfl, rfl, rfl, rfl, port⟩⟩⟩

/-- At the release of RESET_N the table state is recomputed and the levels are evaluated (R117, R124, R153). -/
theorem releaseReset_kept (straps : BitVec 6) (senses : Half) (s : State) : BlocksKept s (releaseReset straps senses s) := by
  have evaluated : RulesGo s (evaluateLevels (sampled straps senses s)) := evaluateLevels_rulesGo rfl rfl fun _ => rfl
  have counts : CountsStand (sampled straps senses s) (evaluateLevels (sampled straps senses s)) := takeSets_counts _ _ _ _
  have gate : BlocksGo (evaluateLevels (sampled straps senses s)) (startGate (evaluateLevels (sampled straps senses s))) :=
    setGu_blocksGo rfl rfl rfl
  have periods : BlocksGo (evaluateLevels (sampled straps senses s)) (releaseReset straps senses s) :=
    (gate.trans (takeFieldPeriod_blocksAside _).goes).trans (takeColourPeriod_blocksGo _)
  exact ⟨evaluated.trans periods.toRulesGo, fun _ => countsStay_of (periods.request.trans counts.request)
    (periods.waitCount.trans counts.waitCount) fun _ => resetSound_released (periods.inReset.trans counts.inReset)⟩

theorem endReset_kept (straps : BitVec 6) (senses : Half) (s : State) : BlocksKept s (endReset straps senses s) := by
  unfold endReset; split
  · exact releaseReset_kept straps senses s
  · exact (BlocksGo.refl s).kept id

/-- Every command answers the end of an operation that keeps the rules. -/
theorem exec_blocks (c : Instr) (s : State) : ∃ x, exec c s = answer x ∧ BlocksKept s x := by
  have outside : ∀ {f : State → State}, exec c s = answer (outOfReset f s) → BlocksGo s (f s) →
      ∃ x, exec c s = answer x ∧ BlocksKept s x := fun row h => ⟨_, row, outOfReset_kept h⟩
  have written : ∀ {w : BusWrite} {progEn : Bool}, busWriteOf s.pu.base c = some (w, progEn) →
      ∃ x, exec c s = answer x ∧ BlocksKept s x := fun {w progEn} write => by
    have row := rowsAreBusWrites
    unfold Obligations.RowsAreBusWrites at row
    exact ⟨_, row c s w progEn write, decideWord_kept w progEn s⟩
  cases c
  case causeWordRead form => exact ⟨_, rfl, presentRead_kept _ s⟩
  case programRowCompletion holds => exact outside rfl (completeProgramRow_blocksGo holds s)
  case eraseAllCompletion => exact outside rfl (completeEraseAll_blocksGo s)
  case setLockCompletion => exact outside rfl (completeSetLock_blocksGo s)
  case arbiterGrant input =>
    obtain ⟨arriving, first⟩ := input
    cases arriving with
    | none => exact ⟨_, rfl, grantPort_kept first s⟩
    | some r => exact ⟨_, rfl, arrived_kept r first s⟩
  case processorTransactionEnd => exact ⟨_, rfl, endTransaction_kept s⟩
  case fetchBurstCompletion => exact outside rfl (endBurst_blocksAside s).goes
  case primingComplete => exact outside rfl (primingTest_blocksAside s).goes
  case waitingRecordExpansion => exact outside rfl (retryHead_blocksAside s).goes
  case syncInRising => exact outside rfl (takeSync_blocksAside s).goes
  case framePeriod => exact outside rfl (playPeriod_blocksGo s)
  case starvedResume => exact outside rfl (resumePeriod_blocksGo s)
  case starveLimit => exact outside rfl (starveLimitTest_blocksGo s)
  case winddownCompletion => exact outside rfl (winddownPeriod_blocksGo s)
  case windowEnd channel => exact outside rfl (endWindow_blocksGo channel s)
  case fieldPeriod => exact outside rfl (takeFieldPeriod_blocksAside s).goes
  case deferredCloseApply v => exact outside rfl (deferredClosePeriod_blocksAside v s).goes
  case colourPeriod => exact outside rfl (takeColourPeriod_blocksGo s)
  case senseLevelChange input high => exact outside rfl (changeLevel_blocksGo input high s)
  case debounceTimerExpiry input => exact outside rfl (timerExpires_blocksGo input s)
  case windInRising => exact outside rfl (countPulse_blocksGo s)
  case windGateExpiry => exact outside rfl (gateExpires_blocksGo s)
  case resetAssert => exact ⟨_, rfl, assertReset_kept s⟩
  case resetRelease straps senses => exact ⟨_, rfl, endReset_kept straps senses s⟩
  all_goals exact written rfl

/-! ## The end of every command -/

theorem settle_rulesGo (s : State) : RulesGo s (settle s) :=
  rulesGo_of rfl rfl (FollowersStand.refl s.lu) (interlocksStand_of rfl rfl rfl)

/-- ATTN_N follows the two sets (R186). -/
theorem settle_attentionSound (s : State) : AttentionSound (settle s) := decide_eq_true_iff

/-- The fetch request follows the state (R34). -/
theorem settle_requestSound (s : State) : RequestSound (settle s) := rfl

/-- The arbiter follows the port and those waiting (R173). -/
theorem settle_arbiterSound (s : State) : ArbiterSound (settle s) := by
  have found := settle_arbiter s
  have idle := arbitrate_idle (s := settleRequest (settleAttention s))
  refine ⟨?_, fun none => idle (found.symm.trans none), settle_dueStands s⟩
  have busy := arbitrate_busy (settleRequest (settleAttention s))
  rw [found, Ne, busy, not_not]
  exact Iff.rfl

/-- A request that is withdrawn leaves no wait count, and one that did not stand left none (R174). -/
theorem settle_waitSound {s : State} (sound : WaitSound s) : WaitSound (settle s) := fun none => by
  rw [settle_fetchRequest] at none
  rw [settle_waitCount, waitAfterRequest, none]
  cases request : s.fu.fetchRequest
  · exact sound request
  · rfl

/-- While RESET_N is asserted nothing is fetched, and no cause is pending (R175). -/
theorem settle_resetSound {s : State} (sound : ResetSound s) : ResetSound (settle s) := fun asserted => by
  obtain ⟨sq, fu, au, wu, lu, ru, gu, operation, count, last, waits, carried, port⟩ := sound asserted
  have request : (settle s).fu.fetchRequest = false := settle_fetchRequest_resting (by rw [sq]; rfl)
  have attention : (settle s).ru.attention = false := settle_attention_none (by rw [ru]; rfl)
  have none : waitAfterRequest s = 0 := by rw [waitAfterRequest, waits, ite_self]
  exact ⟨sq, by rw [settle_fu, request, fu]; rfl, au, wu, lu, by rw [settle_ru, attention, ru]; rfl, gu, operation, count, last,
    none, carried, port⟩

theorem settle_countsStay (s : State) : CountsStay s (settle s) := ⟨settle_waitSound, settle_resetSound⟩

/-! ## Memory -/

theorem PathMove.memorySound {c : Instr} {s x : State} (h : PathMove c s x) (sound : MemorySound s) : MemorySound x := by
  have same : x.mem = s.mem → MemorySound x := fun mem => by rw [MemorySound, mem]; exact sound
  cases h with
  | aside aside => exact same aside.way.mem
  | written write => exact same (decideWord_mem _ _ s)
  | presented r => exact same (by rw [presentRead_frame]; rfl)
  | granted first => exact Memory.wf_grantPort sound
  | arrived r first =>
    refine Memory.wf_grantPort ?_
    rw [presentRead_frame]; exact sound
  | ended b port => exact same (completeBurst_fetchOnly b s).mem
  | asserted => exact same rfl
  | released straps senses asserted => exact same (releaseReset_aside straps senses s).way.mem

end Sys2Proof.Machine

open Sys2Proof Sys2Proof.Machine

/-- Settles O59: the rules that pass from state to state by what the operation does (`exec_blocks`), those that the end of
every command makes hold whatever stood before, and memory by the moves of the path. -/
theorem blocksStaySound : Obligations.BlocksStaySound := by
  unfold Obligations.BlocksStaySound
  intro s t taken
  unfold step at taken
  split at taken
  case h_1 => cases taken; exact ⟨id, id, id, id, id, id, fun arbiter => ⟨arbiter, id, id⟩, id, id⟩
  case h_2 c rest queue =>
    obtain ⟨x, row, kept⟩ := exec_blocks c (s.setPending rest)
    obtain ⟨y, path, move⟩ := exec_pathMove c (s.setPending rest)
    have memory : MemorySound s → MemorySound t := fun sound => by
      rw [Host.Outcome.next.inj (taken.symm.trans path)]; exact move.memorySound sound
    rw [Host.Outcome.next.inj (taken.symm.trans row)] at memory ⊢
    have rules := kept.rules.trans (settle_rulesGo x)
    refine ⟨rules.monitors, rules.peaks, rules.latches, rules.matching, fun _ => settle_attentionSound x,
      fun _ => settle_requestSound x, fun arbiter => ?_, memory, rules.tableState⟩
    obtain ⟨-, -, due⟩ := arbiter
    have counts := (kept.counts due).trans (settle_countsStay x)
    exact ⟨settle_arbiterSound x, counts.waits, counts.resets⟩

end

section
/-! Proofs: the words of the status page. -/

namespace Sys2Proof.Machine

/-! ## Words packed field by field (section 11.3)

A status word is built from its lowest field up, each field placed above those before it, so that its number is the sum of the
fields, each times the weight of its lowest bit. -/

/-- The word's fields lie below bit `n`, and their sum is `v`. -/
def Packs (w : Word) (n v : Nat) : Prop := w.toNat = v ∧ v < 2 ^ n

namespace Packs

variable {w : Word} {n v bit size x : Nat} {b : Bool}

theorem toNat_eq (low : Packs w n v) : w.toNat = v := low.1

/-- The lowest field stands at bit 0. -/
theorem first (fits : x < 2 ^ size) (room : size ≤ 32 := by decide) : Packs (at_ 0 x) size x := by
  have word : x < 2 ^ 32 := fits.trans_le (Nat.pow_le_pow_right (by decide) room)
  refine ⟨?_, fits⟩
  rw [at_, BitVec.shiftLeft_zero, BitVec.toNat_ofNat, Nat.mod_eq_of_lt word]

/-- A field above those packed before it adds its value times the weight of its lowest bit. -/
theorem field (low : Packs w n v) (fits : x < 2 ^ size) (above : n ≤ bit := by decide)
    (room : bit + size ≤ 32 := by decide) : Packs (w ||| at_ bit x) (bit + size) (v + 2 ^ bit * x) := by
  obtain ⟨value, below⟩ := low
  have lower : v < 2 ^ bit := below.trans_le (Nat.pow_le_pow_right (by decide) above)
  have total : v + 2 ^ bit * x < 2 ^ (bit + size) := by
    calc v + 2 ^ bit * x < 2 ^ bit * (x + 1) := by rw [Nat.mul_succ]; omega
      _ ≤ 2 ^ (bit + size) := by rw [pow_add]; exact Nat.mul_le_mul_left _ fits
  have word : v + 2 ^ bit * x < 2 ^ 32 := total.trans_le (Nat.pow_le_pow_right (by decide) room)
  have alone : x < 2 ^ 32 := fits.trans_le (Nat.pow_le_pow_right (by decide) (by omega))
  have placed : (at_ bit x).toNat = x <<< bit := by
    rw [at_, BitVec.toNat_shiftLeft, BitVec.toNat_ofNat, Nat.mod_eq_of_lt alone, Nat.mod_eq_of_lt]
    rw [Nat.shiftLeft_eq, Nat.mul_comm]; omega
  refine ⟨?_, total⟩
  rw [BitVec.toNat_or, value, placed, Nat.or_comm, ← Nat.shiftLeft_add_eq_or_of_lt lower, Nat.shiftLeft_eq, Nat.mul_comm,
    Nat.add_comm]

/-- A flag is a field of one bit. -/
theorem flag (low : Packs w n v) (above : n ≤ bit := by decide) (room : bit + 1 ≤ 32 := by decide) :
    Packs (w ||| flagAt bit b) (bit + 1) (v + 2 ^ bit * b.toNat) :=
  low.field (size := 1) b.toNat_lt above room

end Packs

/-! ## Fields that are codes -/

theorem ShowState.code_lt (x : ShowState) : x.code < 2 ^ 4 := by cases x <;> decide
theorem Rate.code_lt (x : Rate) : x.code < 2 ^ 2 := by cases x <;> decide
theorem CommandOutcome.statusCode_lt (x : CommandOutcome) : x.statusCode < 2 ^ 4 := by cases x <;> decide
theorem TableState.code_lt (x : TableState) : x.code < 2 ^ 2 := by cases x <;> decide
theorem LimitOutcome.code_lt (x : LimitOutcome) : x.code < 2 ^ 4 := by cases x <;> decide
theorem CompletionResult.code_lt (x : CompletionResult) : x.code < 2 ^ 2 := by cases x <;> decide

/-- The first cause of the fault word with its entry index, below bit 12. -/
theorem packs_faultCauseBits : (cause : Option FaultCause) → Packs (faultCauseBits cause) 12 (match cause with
    | none => 0 | some (.interlockTrip e) => 1 + 256 * e.val + 2048 | some .starveLimit => 2 | some .positionLimit => 3)
  | none | some .starveLimit | some .positionLimit => by constructor <;> decide
  | some (.interlockTrip e) => ((Packs.first (x := 1) (size := 4) (by decide)).field (size := 3) e.isLt).flag

/-- What an operation's code and row add to their word. -/
def OpName.weight : OpName → Nat
  | .programRow r => 16 + 256 * r.val
  | .setLock => 32
  | .eraseAll => 48

/-- An operation's code and row, in bits 4 to 12, above fields below bit 4. -/
theorem Packs.operation {w : Word} {n v : Nat} (low : Packs w n v) (above : n ≤ 4) :
    (o : OpName) → Packs (w ||| o.bits) 13 (v + o.weight)
  | .programRow r => by
    have packed := (low.field (x := 1) (size := 4) (by decide) above).field (bit := 8) (size := 5) r.isLt
    rw [BitVec.or_assoc, Nat.add_assoc] at packed
    exact packed
  | .setLock => low.field (x := 2) (size := 9) (by decide) above
  | .eraseAll => low.field (x := 3) (size := 9) (by decide) above

/-! ## The groups of the page -/

section
variable {s : State} {off : Nat}

theorem statusWord_show (high : off < 0x020) : statusWord s off = showWord s off := if_pos high

theorem statusWord_ring (low : 0x020 ≤ off) (high : off < 0x050) : statusWord s off = ringWord s off := by
  simp (disch := omega) only [statusWord, if_neg, if_pos]

theorem statusWord_guard (low : 0x120 ≤ off) : statusWord s off = guardWord s off := by
  simp (disch := omega) only [statusWord, if_neg]

end

/-- The two words of a channel's monitor. -/
theorem statusWord_monitor (s : State) (c : Fin 4) :
    statusWord s (0x050 + 8 * c.val) = monitorWord s.au.monitors[c] false ∧
    statusWord s (0x054 + 8 * c.val) = monitorWord s.au.monitors[c] true := by
  have channel : (0x050 + 8 * c.val - 0x050) / 8 = c.val ∧ (0x054 + 8 * c.val - 0x050) / 8 = c.val := by omega
  have place : ¬ (0x050 + 8 * c.val) % 8 = 4 ∧ (0x054 + 8 * c.val) % 8 = 4 := by omega
  have monitor : s.au.monitors[c.val]?.getD Monitor.off = s.au.monitors[c] := by
    rw [Vector.getElem?_eq_getElem c.isLt]; rfl
  constructor <;>
    simp (disch := omega) only [statusWord, if_neg, if_pos, channel, place, monitor, decide_true, decide_false]

/-- The words of the images and of the deferred-close set. -/
theorem statusWord_bank (s : State) (b : Fin 6) :
    statusWord s (0x080 + 4 * b.val) = bankOf s.wu.wanted b ∧ statusWord s (0x0A0 + 4 * b.val) = bankOf s.wu.applied b ∧
    statusWord s (0x0C0 + 4 * b.val) = bankOf s.wu.deferred b := by
  have bank (base : Nat) : (base + 4 * b.val - base) / 4 = b.val := by omega
  refine ⟨?_, ?_, ?_⟩ <;> simp (disch := omega) only [statusWord, if_neg, if_pos, bank]

/-- The words of the commanded and the output speeds. -/
theorem statusWord_speeds (s : State) (k : Fin 8) :
    statusWord s (0x0E0 + 4 * k.val) = speedWord s.wu.commanded k ∧
    statusWord s (0x100 + 4 * k.val) = speedWord s.wu.output k := by
  have pair (base : Nat) : (base + 4 * k.val - base) / 4 = k.val := by omega
  constructor <;> simp (disch := omega) only [statusWord, if_neg, if_pos, pair]

/-! ## The fields of each group -/

/-- The show word carries the state, the wind-down kind, the hold reasons, hold-pending and the rate. -/
theorem toNat_stateWord (s : State) : (statusWord s 0x000).toNat =
    s.sq.state.code + 16 * s.sq.kind.bit.toNat + 256 * s.sq.holdHost.toNat + 512 * s.sq.holdInterlock.toNat +
      4096 * s.sq.holdPending.bit.toNat + 65536 * s.sq.rate.code :=
  ((Packs.first s.sq.state.code_lt).flag.flag.flag.flag.field s.sq.rate.code_lt).toNat_eq

theorem toNat_lastMarkWord (s : State) : (statusWord s 0x008).toNat =
    match s.sq.lastMark with | some m => m.number.toNat + 2147483648 | none => 0 := by
  rw [statusWord_show (by decide), showWord]
  cases s.sq.lastMark with
  | none => rfl
  | some m => exact (Packs.first m.number.isLt).flag.toNat_eq

theorem toNat_lastReleasedWord (s : State) : (statusWord s 0x044).toNat =
    match s.sq.lastReleased with | some q => q.toNat + 256 | none => 0 := by
  rw [statusWord_ring (by decide) (by decide), ringWord]
  cases s.sq.lastReleased with
  | none => rfl
  | some q => exact (Packs.first q.isLt).flag.toNat_eq

theorem toNat_cueRingWords (s : State) :
    (statusWord s 0x020).toNat = s.fu.cueMark.val ∧ (statusWord s 0x024).toNat = s.fu.cueFetch.val ∧
    (statusWord s 0x028).toNat = 4095 - (s.fu.cueMark - s.fu.cueFetch).val := by
  have free : cueFree s.fu < 2 ^ 12 := (Nat.sub_le _ _).trans_lt (by decide)
  exact ⟨(Packs.first (size := 12) s.fu.cueMark.isLt).toNat_eq, (Packs.first (size := 12) s.fu.cueFetch.isLt).toNat_eq,
    (Packs.first free).toNat_eq⟩

theorem toNat_audioRingWords (s : State) :
    (statusWord s 0x030).toNat = s.fu.audioMark.val + 2147483648 * s.fu.final.toNat ∧
    (statusWord s 0x034).toNat = s.fu.audioFetch.val ∧
    (statusWord s 0x038).toNat = 114687 - (s.fu.audioMark - s.fu.audioFetch).val := by
  have fits (slot : Fin Config.audioSlots) : slot.val < 2 ^ 17 := slot.isLt.trans (by decide)
  have free : audioFree s.fu < 2 ^ 17 := (Nat.sub_le _ _).trans_lt (by decide)
  exact ⟨(Packs.first (fits s.fu.audioMark)).flag.toNat_eq, (Packs.first (fits s.fu.audioFetch)).toNat_eq,
    (Packs.first free).toNat_eq⟩

/-- The late entries are among those of the table, and so fit their field. -/
theorem toNat_tableWord {s : State} (held : s.sq.table.length ≤ 512) : (statusWord s 0x040).toNat =
    s.sq.table.length + 65536 * s.sq.table.countP (fun e => e.late) := by
  have late : s.sq.table.countP (fun e => e.late) ≤ s.sq.table.length := List.countP_le_length
  have entries : s.sq.table.length < 2 ^ 10 := held.trans_lt (by decide)
  exact ((Packs.first entries).field (late.trans_lt entries)).toNat_eq

theorem toNat_monitorWord (m : Monitor) :
    (monitorWord m false).toNat = m.window.toNat + 65536 * m.threshold.toNat ∧
    (monitorWord m true).toNat = m.storedPeak.toNat + 65536 * m.storedCount.toNat :=
  ⟨((Packs.first m.window.isLt).field m.threshold.isLt).toNat_eq,
    ((Packs.first m.storedPeak.isLt).field m.storedCount.isLt).toNat_eq⟩

theorem getLsbD_bankOf (image : BitVec 192) (b : Nat) (i : Fin 32) :
    (bankOf image b).getLsbD i = image.getLsbD (32 * b + i.val) := by
  rw [bankOf, BitVec.getLsbD_extractLsb', decide_eq_true i.isLt, Bool.true_and]

/-- Speeds of at most 1,000 fit the two halves of their word. -/
theorem toNat_speedWord {speeds : Vector Nat 16} (bounded : ∀ p : Fin 16, speeds[p] ≤ 1000) (k : Fin 8) :
    (speedWord speeds k).toNat = speeds[2 * k.val] + 65536 * speeds[2 * k.val + 1] := by
  have fits (p : Fin 16) : speeds[p] < 2 ^ 16 := (bounded p).trans_lt (by decide)
  rw [speedWord, Vector.getElem?_eq_getElem (by omega), Vector.getElem?_eq_getElem (by omega)]
  exact ((Packs.first (fits ⟨2 * k.val, by omega⟩)).field (fits ⟨2 * k.val + 1, by omega⟩)).toNat_eq

/-- The limit store's word carries the table state, the operation in progress with its row, and the staging marks. -/
theorem toNat_storeWord (s : State) : (statusWord s 0x130).toNat =
    s.ls.tableState.code + (match s.ls.operation with | some o => o.name.weight | none => 0) + 65536 * s.ls.marks.toNat := by
  have state := Packs.first s.ls.tableState.code_lt
  rw [statusWord_guard (by decide), guardWord]
  cases s.ls.operation with
  | none =>
    change (at_ 0 s.ls.tableState.code ||| 0#32 ||| at_ 16 s.ls.marks.toNat).toNat = _
    rw [BitVec.or_zero]; exact (state.field s.ls.marks.isLt).toNat_eq
  | some o => exact ((state.operation (by decide) o.name).field s.ls.marks.isLt).toNat_eq

theorem toNat_lastCommandWord (s : State) : (statusWord s 0x138).toNat =
    match s.ls.lastCommand with
    | some c => c.code.toNat + 256 * c.rowField.toNat + 2147483648 + 65536 * s.ls.outcome.code
    | none => 0 := by
  rw [statusWord_guard (by decide), guardWord]
  cases s.ls.lastCommand with
  | none => rfl
  | some c =>
    refine Eq.trans ?_ (Nat.add_right_comm _ _ _)
    exact (((Packs.first c.code.isLt).field c.rowField.isLt).field s.ls.outcome.code_lt).flag.toNat_eq

theorem toNat_lastCompletionWord (s : State) : (statusWord s 0x13C).toNat =
    match s.ls.lastCompletion with
    | some c => c.result.code + c.name.weight
    | none => 0 := by
  rw [statusWord_guard (by decide), guardWord]
  cases s.ls.lastCompletion with
  | none => rfl
  | some c => exact ((Packs.first c.result.code_lt).operation (by decide) c.name).toNat_eq

/-- The cause word's number, 1 to 9, when a cause is in both sets. -/
theorem toNat_causeWord {s : State} {k : Fin 9} (number : causeNumber s.ru = k.val + 1) :
    (statusWord s 0x144).toNat = k.val + 1 := by
  rw [statusWord_guard (by decide), guardWord, number]
  exact (Packs.first (size := 4) (by omega)).toNat_eq

/-- The cause word is 0 when no cause is in both sets. -/
theorem statusWord_noCause {s : State} (none : s.ru.pending &&& s.ru.enable = 0) : statusWord s 0x144 = 0 := by
  rw [statusWord_guard (by decide), guardWord, causeNumber_none none]; rfl

/-- Past the cause word the page reads 0. -/
theorem guardWord_above {s : State} {off : Nat} (above : 0x148 ≤ off) : guardWord s off = 0 := by
  unfold guardWord
  split
  case h_9 => rfl
  all_goals omega

/-- The words that the page's table does not list read 0. -/
theorem statusWord_unlisted (s : State) {off : Nat}
    (place : off = 0x04C ∨ off = 0x098 ∨ off = 0x09C ∨ off = 0x0B8 ∨ off = 0x0BC ∨ off = 0x0D8 ∨ off = 0x0DC ∨
      off = 0x128 ∨ off = 0x12C ∨ 0x148 ≤ off) : statusWord s off = 0 := by
  obtain rfl | rfl | rfl | rfl | rfl | rfl | rfl | rfl | rfl | above := place
  on_goal 10 => exact (statusWord_guard (by omega)).trans (guardWord_above above)
  all_goals rfl

end Sys2Proof.Machine

open Sys2Proof Sys2Proof.Machine

/-- Settles O30: each listed word is its fields packed from bit 0 up, and a word that is not listed is zeros. -/
theorem statusPageShowsState : Obligations.StatusPageShowsState := by
  unfold Obligations.StatusPageShowsState
  refine ⟨fun s => ⟨?_, rfl, toNat_lastMarkWord s, rfl, ?_, rfl, rfl, ?_, ?_⟩, fun s c => ?_, fun s => ?_, fun s b i => ?_,
    fun s k => ?_, fun s => ?_, fun s offset => statusWord_unlisted s⟩
  · rw [toNat_stateWord]
    cases s.sq.kind <;> cases s.sq.holdPending <;> cases s.sq.rate <;> rfl
  · exact ((packs_faultCauseBits _).field s.sq.faultRecord.secondary.isLt).toNat_eq
  · exact (Packs.first s.ru.outcome.statusCode_lt).toNat_eq
  · obtain ⟨cueMark, cueFetch, cueFree⟩ := toNat_cueRingWords s
    obtain ⟨audioMark, audioFetch, audioFree⟩ := toNat_audioRingWords s
    exact ⟨cueMark, cueFetch, cueFree,
      ((Packs.first s.fu.expectedSequence.isLt).field s.sq.foundSequence.isLt).flag.flag.toNat_eq,
      audioMark, audioFetch, audioFree, fun level => (Packs.first (size := 11) (level.trans_lt (by decide))).toNat_eq,
      toNat_tableWord, toNat_lastReleasedWord s, (Packs.first s.au.muteSet.isLt).toNat_eq⟩
  · obtain ⟨first, second⟩ := statusWord_monitor s c
    rw [first, second]
    exact toNat_monitorWord _
  · exact ⟨((Packs.first s.pu.refusedCount.isLt).field s.sq.lateCount.isLt).toNat_eq,
      ((Packs.first s.sq.discardedCount.isLt).field s.au.underflowCount.isLt).toNat_eq,
      (Packs.first s.sq.cueErrorCount.isLt).toNat_eq, (Packs.first s.pu.lastRefused.isLt).toNat_eq⟩
  · obtain ⟨wanted, applied, deferred⟩ := statusWord_bank s b
    rw [wanted, applied, deferred]
    exact ⟨getLsbD_bankOf _ b i, getLsbD_bankOf _ b i, getLsbD_bankOf _ b i⟩
  · obtain ⟨commanded, output⟩ := statusWord_speeds s k
    rw [commanded, output]
    exact ⟨fun bounded => toNat_speedWord bounded k, fun bounded => toNat_speedWord bounded k⟩
  · have sets := ((Packs.first s.ru.pending.isLt).field (bit := 16) s.ru.enable.isLt).toNat_eq
    refine ⟨((Packs.first s.gu.debounced.isLt).field s.gu.matched.isLt |>.field s.gu.latched.isLt).toNat_eq,
      ((Packs.first (size := 2) s.gu.band.isLt).field s.gu.lastWind.isLt).toNat_eq, ?_,
      fun k lt => wordByte_wordOfBytes (fun j => s.ls.table.byte (1476 + j)) lt, ?_, ?_, sets, statusWord_noCause,
      fun k pending enabled first => toNat_causeWord (causeNumber_some (topCause_eq pending enabled first))⟩
    · rw [toNat_storeWord]
      rfl
    · rw [toNat_lastCommandWord]
      cases s.ls.lastCommand with
      | none => rfl
      | some c => cases s.ls.outcome <;> rfl
    · rw [toNat_lastCompletionWord]
      cases s.ls.lastCompletion with
      | none => rfl
      | some c => cases c.result <;> rfl

end

section
/-! Proofs: a step takes the command in front of the queue, and every command answers a next state and leaves the queue. -/

namespace Sys2Proof.Machine

/-! ## The step -/

theorem step_front {c : Instr} {rest : List Instr} {s : State} (queue : s.pending = c :: rest) :
    step s = exec c (s.setPending rest) := by
  unfold step; rw [queue]

theorem step_idle {s : State} (empty : s.pending = []) : step s = .next s := by
  unfold step; rw [empty]

/-! ## The queue under the operations of show, water and light -/

@[simp] theorem pending_enterRunning (s : State) : (enterRunning s).pending = s.pending := by
  rw [enterRunning_frame]; rfl

@[simp] theorem pending_primingTest (s : State) : (primingTest s).pending = s.pending := by
  rw [primingTest_frame]; rfl

@[simp] theorem pending_takeSync (s : State) : (takeSync s).pending = s.pending := by
  unfold takeSync; split
  · exact pending_enterRunning s
  · rfl

@[simp] theorem pending_resumePeriod (s : State) : (resumePeriod s).pending = s.pending := by
  unfold resumePeriod; split
  · exact (playPeriod_periodOnly s).pending
  · rfl

@[simp] theorem pending_takeFieldPeriod (s : State) : (takeFieldPeriod s).pending = s.pending := by
  rw [takeFieldPeriod, (winddownTest_fetchOnly _).pending, waterPeriod_frame]; rfl

@[simp] theorem pending_takeColourPeriod (s : State) : (takeColourPeriod s).pending = s.pending := by
  rw [takeColourPeriod, (winddownTest_fetchOnly _).pending, noteColourPeriod, lightPeriod_frame]; rfl

@[simp] theorem pending_deferredClosePeriod (v : Fin 192) (s : State) : (deferredClosePeriod v s).pending = s.pending := by
  unfold deferredClosePeriod; split
  · exact pending_takeFieldPeriod s
  · rfl

@[simp] theorem pending_winddownPeriod (s : State) : (winddownPeriod s).pending = s.pending := by
  unfold winddownPeriod
  repeat' split
  · exact pending_takeFieldPeriod s
  · exact pending_takeColourPeriod s
  · rfl

/-! ## The queue under evaluations, completions, bursts and reset -/

@[simp] theorem pending_takeSets (matched latched moved : Byte) (s : State) :
    (takeSets matched latched moved s).pending = s.pending :=
  (takeSets_showOnly matched latched moved s).pending

@[simp] theorem pending_changeLevel (input : Fin 16) (high : Bool) (s : State) :
    (changeLevel input high s).pending = s.pending := by
  unfold changeLevel; split <;> rfl

@[simp] theorem pending_timerExpires (input : Fin 16) (s : State) : (timerExpires input s).pending = s.pending := by
  unfold timerExpires expireDebounce
  dsimp only
  repeat' split
  · rfl
  · exact pending_takeSets _ _ _ _
  · rfl

@[simp] theorem pending_gateExpires (s : State) : (gateExpires s).pending = s.pending := by
  unfold gateExpires expireGate
  dsimp only
  repeat' split
  all_goals rfl

@[simp] theorem pending_finishOperation (name : OpName) (result : CompletionResult) (s : State) :
    (finishOperation name result s).pending = s.pending := by
  obtain ⟨-, -, -, -, pending, -⟩ := finishOperation_showOnly name result s
  exact pending

@[simp] theorem pending_completeProgramRow (holds : Bool) (s : State) : (completeProgramRow holds s).pending = s.pending := by
  unfold completeProgramRow
  repeat' split
  · exact pending_finishOperation _ _ _
  all_goals rfl

@[simp] theorem pending_completeSetLock (s : State) : (completeSetLock s).pending = s.pending := by
  unfold completeSetLock; split
  · exact pending_finishOperation _ _ _
  · rfl

@[simp] theorem pending_completeEraseAll (s : State) : (completeEraseAll s).pending = s.pending := by
  unfold completeEraseAll; split
  · exact pending_finishOperation _ _ _
  · rfl

@[simp] theorem pending_endBurst (s : State) : (endBurst s).pending = s.pending := by
  unfold endBurst; split
  · exact (completeBurst_fetchOnly _ s).pending
  all_goals rfl

@[simp] theorem pending_endReset (straps : BitVec 6) (senses : Half) (s : State) :
    (endReset straps senses s).pending = s.pending := by
  unfold endReset; split
  · have evaluated : (evaluateLevels (sampled straps senses s)).pending = s.pending := pending_takeSets _ _ _ _
    rw [releaseReset, pending_takeColourPeriod, pending_takeFieldPeriod]
    exact evaluated
  · rfl

/-! ## The queue under the captures of written words -/

@[simp] theorem ShowCommand.pending_act (c : ShowCommand) (s : State) : (c.act s).pending = s.pending := by
  cases c
  case start => exact pending_primingTest _
  case stop => exact (windDown_showOnly .normal s).pending
  case hold => change (takeHold s).pending = _; unfold takeHold; split <;> rfl
  case step => exact pending_enterRunning _
  case proceed =>
    change (takeProceed s).pending = _; unfold takeProceed; dsimp only; split
    · rfl
    · exact pending_enterRunning _
  case cueResync => exact (takeResync_headOnly s).pending
  case releaseInterlocks =>
    change (leaveTripped (unlatch s)).pending = _; unfold leaveTripped; split
    all_goals exact pending_takeSets _ _ _ s
  case mute => exact (takeMute_musicOnly _ s).pending
  case ringReset | ambient | monitor | spaceTriggers | clearCounts => rfl

@[simp] theorem pending_takeShowCommand (code : Word) (s : State) : (takeShowCommand code s).pending = s.pending := by
  unfold takeShowCommand takeCommand
  repeat' split
  · exact ShowCommand.pending_act _ s
  all_goals rfl

@[simp] theorem pending_takeArg (i : Fin 3) (value : Word) (s : State) : (takeArg i value s).pending = s.pending := by
  unfold takeArg; split <;> rfl

@[simp] theorem pending_writeCueMark (value : Word) (s : State) : (writeCueMark value s).pending = s.pending := by
  unfold writeCueMark; split <;> rfl

@[simp] theorem pending_writeAudioMark (value : Word) (s : State) : (writeAudioMark value s).pending = s.pending := by
  unfold writeAudioMark; split
  · exact pending_primingTest _
  · rfl

@[simp] theorem pending_captureStaging (i : Fin 16) (value : Word) (s : State) :
    (captureStaging i value s).pending = s.pending := by
  unfold captureStaging; split <;> rfl

@[simp] theorem pending_captureFull (offset : Nat) (value : Word) (progEn : Bool) (s : State) :
    (captureFull offset value progEn s).pending = s.pending := by
  unfold captureFull
  repeat' split
  · exact pending_takeShowCommand value s
  · exact pending_takeArg 0 value s
  · exact pending_takeArg 1 value s
  · exact pending_takeArg 2 value s
  · exact pending_writeCueMark value s
  · exact pending_writeAudioMark value s
  on_goal 4 => exact pending_captureStaging _ value s
  all_goals rfl

@[simp] theorem pending_captureWord (w : BusWrite) (progEn : Bool) (s : State) :
    (captureWord w progEn s).pending = s.pending := by
  unfold captureWord
  repeat' split
  · exact pending_captureFull _ _ _ s
  all_goals rfl

/-! ## The queue on the memory path -/

@[simp] theorem pending_pushWord (w : BusWrite) (refused : Bool) (s : State) :
    (pushWord w refused s).pending = s.pending := by
  rw [pushWord_frame]; rfl

@[simp] theorem pending_decideWord (w : BusWrite) (progEn : Bool) (s : State) :
    (decideWord w progEn s).pending = s.pending := by
  unfold decideWord
  repeat' split
  · exact pending_pushWord w false s
  · rw [refuseWord_frame]; rfl
  · rw [pending_pushWord, pending_captureWord]

@[simp] theorem pending_presentRead (r : BusRead) (s : State) : (presentRead r s).pending = s.pending := by
  rw [presentRead_frame]; rfl

@[simp] theorem pending_grantPort (first : Bool) (s : State) : (grantPort first s).pending = s.pending := by
  rw [grantPort_frame]; rfl

@[simp] theorem pending_endTransaction (s : State) : (endTransaction s).pending = s.pending := by
  rw [endTransaction_frame]; rfl

/-! ## Every command -/

/-- A command completes with the settled state of its operation, and the end of an event leaves the queue. -/
theorem completes_queue {c : Instr} {s x : State} (row : exec c s = answer x) (kept : x.pending = s.pending) :
    Completes c s fun t => t.pending = s.pending :=
  ⟨settle x, row, (settle_pending x).trans kept⟩

/-- Taken or not, by whether RESET_N is asserted, an event leaves the queue as its operation does. -/
theorem completes_queue_event {c : Instr} {f : State → State} {s : State} (row : exec c s = answer (outOfReset f s))
    (kept : (f s).pending = s.pending) : Completes c s fun t => t.pending = s.pending := by
  refine completes_queue row ?_
  unfold outOfReset; split
  · rfl
  · exact kept

/-- A row that is a write completes as the bus decode of that write does (R171, R187). -/
theorem completes_queue_write {c : Instr} {s : State} {w : BusWrite} {progEn : Bool}
    (write : busWriteOf s.pu.base c = some (w, progEn)) : Completes c s fun t => t.pending = s.pending := by
  have decoded := rowsAreBusWrites
  unfold Obligations.RowsAreBusWrites at decoded
  exact completes_queue (decoded c s w progEn write) (pending_decideWord w progEn s)

/-- A grant, behind a read that arrives or alone (R168, R173). -/
theorem completes_queue_grant (input : GrantInput) (s : State) :
    Completes (.arbiterGrant input) s fun t => t.pending = s.pending := by
  obtain ⟨arriving, first⟩ := input
  cases arriving with
  | none => exact completes_queue rfl (pending_grantPort first s)
  | some r =>
    exact completes_queue rfl ((pending_grantPort first (settleArbiter (presentRead r s))).trans (pending_presentRead r s))

end Sys2Proof.Machine

open Sys2Proof Sys2Proof.Machine

/-- Settles O1, by the two branches of the step. -/
theorem stepTakesFrontCommand : Obligations.StepTakesFrontCommand := by
  unfold Obligations.StepTakesFrontCommand
  exact ⟨fun _ _ _ queue => step_front queue, fun _ empty => step_idle empty⟩

/-- Settles O2: a write row by its bus write, and every other row by what its own operation leaves of the queue. -/
theorem everyCommandCompletes : Obligations.EveryCommandCompletes := by
  unfold Obligations.EveryCommandCompletes
  intro c s
  cases c
  case causeWordRead form => exact completes_queue rfl (pending_presentRead _ s)
  case programRowCompletion holds => exact completes_queue_event rfl (pending_completeProgramRow holds s)
  case eraseAllCompletion => exact completes_queue_event rfl (pending_completeEraseAll s)
  case setLockCompletion => exact completes_queue_event rfl (pending_completeSetLock s)
  case arbiterGrant input => exact completes_queue_grant input s
  case processorTransactionEnd => exact completes_queue rfl (pending_endTransaction s)
  case fetchBurstCompletion => exact completes_queue_event rfl (pending_endBurst s)
  case primingComplete => exact completes_queue_event rfl (pending_primingTest s)
  case waitingRecordExpansion => exact completes_queue_event rfl (retryHead_headOnly s).pending
  case syncInRising => exact completes_queue_event rfl (pending_takeSync s)
  case framePeriod => exact completes_queue_event rfl (playPeriod_periodOnly s).pending
  case starvedResume => exact completes_queue_event rfl (pending_resumePeriod s)
  case starveLimit => exact completes_queue_event rfl (starveLimitTest_showOnly s).pending
  case winddownCompletion => exact completes_queue_event rfl (pending_winddownPeriod s)
  case windowEnd channel => exact completes_queue_event rfl (endWindow_musicOnly channel s).pending
  case fieldPeriod => exact completes_queue_event rfl (pending_takeFieldPeriod s)
  case deferredCloseApply valve => exact completes_queue_event rfl (pending_deferredClosePeriod valve s)
  case colourPeriod => exact completes_queue_event rfl (pending_takeColourPeriod s)
  case senseLevelChange input high => exact completes_queue_event rfl (pending_changeLevel input high s)
  case debounceTimerExpiry input => exact completes_queue_event rfl (pending_timerExpires input s)
  case windInRising => exact completes_queue_event (f := countPulse) rfl rfl
  case windGateExpiry => exact completes_queue_event rfl (pending_gateExpires s)
  case resetAssert => exact completes_queue (x := assertReset s) rfl rfl
  case resetRelease straps senses => exact completes_queue rfl (pending_endReset straps senses s)
  all_goals exact completes_queue_write rfl

end
